-- ==== Sys2Proof/Word.lean ====
section
/-! DEFINITION. The value types of the block (spec/00_scope.md R10, R11, R15) and nothing that computes an instruction's result. -/

namespace Sys2Proof

/-- A byte: a symbol, or one element of IN, OUT, BLOB (R15, 20_memory.md R60). -/
abbrev Byte := BitVec 8

/-- A count, weight or length register: W = 32 bits (R9). -/
abbrev Word := BitVec 32

/-- An arena index, 9 bits; 511 is NIL (R9, R31). -/
abbrev NodeIdx := BitVec 9

/-- The "no node" index, nine bits all ones (R9). -/
def NIL : NodeIdx := 511#9

/-- A bit sequence, element 0 first in stream order (R11). -/
abbrev Bits := List Bool

/-- A code: a bit sequence, bit 0 that of the edge leaving the root (R15, R35). Its length bound is `Code.wf`. -/
abbrev Code := List Bool

/-- One entry per symbol: the shape of FREQ and of CODE (R22, R29, R35). -/
abbrev Table (α : Type) := Vector α 256

/-- The frequency table: 256 counters of 32 bits, 0 meaning absent (R29). -/
abbrev FreqTable := Table Word

/-- The code table: 256 entries, each absent or a code (R35). -/
abbrev CodeTable := Table (Option Code)

theorem Byte.toNat_lt (b : Byte) : b.toNat < 256 := b.isLt

/-- The entry of symbol `b`. -/
def Table.at {α : Type} (t : Table α) (b : Byte) : α := t[b.toNat]'(Byte.toNat_lt b)

/-- The table with the entry of symbol `b` replaced. -/
def Table.put {α : Type} (t : Table α) (b : Byte) (v : α) : Table α := t.set b.toNat v (Byte.toNat_lt b)

/-- Bits rounded up to whole bytes: `ceil8(n) = (n + 7) div 8` (R10). -/
def ceil8 (n : Nat) : Nat := (n + 7) / 8

end Sys2Proof
end

