-- ==== Sys2Proof/Machine/Types.lean ====
section
/-! DEFINITION. The data the state is made of: arena entries, spaces, host elements, host operations. -/

namespace Sys2Proof.Machine

/-- An arena entry: free, `Leaf{symbol, weight}` or `Internal{weight, left, right}` (10_state.md R31). -/
inductive Node where
  | free
  | leaf (symbol : Byte) (weight : Word)
  | internal (weight : Word) (left right : NodeIdx)
  deriving DecidableEq, Repr

/-- The arena NODE[0..511) (R31). -/
abbrev Arena := Vector Node 511

/-- The seven spaces BufRead and BufWrite reach, ids 1 to 7 (20_memory.md R60). -/
inductive Space where
  | input | freq | node | code | bits | out | blob
  deriving DecidableEq, Repr

/-- One element of a space, or the 32-bit value of a register (R60, R65). -/
inductive Elem where
  | byte (b : Byte)
  | word32 (w : Word)
  | word64 (w : BitVec 64)
  | record (bytes : List Byte)
  deriving DecidableEq, Repr

/-- What the outside does to the block: the five host operations (40_host_access.md R120) and the hardware reset input
(70_reset_and_hazards.md R310). -/
inductive HostOp where
  | regRead (n : Nat)
  | regWrite (n : Nat) (v : Word)
  | bufRead (sp i : Nat)
  | bufWrite (sp i : Nat) (e : Elem)
  | issue (c : BitVec 8)
  | hwReset
  deriving DecidableEq, Repr

end Sys2Proof.Machine
end

