-- ==== Sys2Proof/Syntax.lean ====
section
/-! DEFINITION. The command set HFC-1 (spec/00_scope.md R3): one constructor per row of spec/opcode_table.json. -/

namespace Sys2Proof

/-- The eleven commands. No command carries an operand in its word (spec/30_encoding.md R92), so no constructor has a field.
DECODE is a second name of DECT (47_session_commands.md R267). -/
inductive Instr where
  | sreset            -- SRESET, R260
  | count             -- COUNT, R137
  | build             -- BUILD, R152
  | walk              -- WALK, R172
  | emit              -- EMIT, R187
  | dect              -- DECT (alias DECODE), R202
  | decr              -- DECR, R210
  | exportContainer   -- EXPORT, R240
  | importContainer   -- IMPORT, R245
  | encode            -- ENCODE, R263
  | unpack            -- UNPACK, R266
  deriving DecidableEq, Repr

end Sys2Proof
end

