-- ==== Sys2Proof/WellFormed.lean ====
section
/-! DEFINITION. What a well-formed command, code, table and host operation is. -/

namespace Sys2Proof

/-- A command has no field, so every command is well formed (30_encoding.md R92). -/
def Instr.wf : Instr → Bool
  | .sreset => true
  | .count => true
  | .build => true
  | .walk => true
  | .emit => true
  | .dect => true
  | .decr => true
  | .exportContainer => true
  | .importContainer => true
  | .encode => true
  | .unpack => true

/-- A code has 1 to 255 bits (10_state.md R35). -/
def Code.wf (c : Code) : Bool := decide (1 ≤ c.length) && decide (c.length ≤ 255)

/-- A table entry is absent or a code (R35). -/
def Code.entryWf : Option Code → Bool
  | none => true
  | some c => Code.wf c

/-- Every entry of the table is absent or a code of 1 to 255 bits (R52 (d)). -/
def CodeTable.wf (t : CodeTable) : Bool := t.toList.all Code.entryWf

namespace Machine

/-- The space of an id; ids 0 and above 7 name no buffer space (20_memory.md R60, R67). -/
def Space.ofId : Nat → Option Space
  | 1 => some .input
  | 2 => some .freq
  | 3 => some .node
  | 4 => some .code
  | 5 => some .bits
  | 6 => some .out
  | 7 => some .blob
  | _ => none

/-- Every access moves exactly one element of the space's own size (R60, R65): a byte, a 32-bit counter, a 64-bit node word
or a 33-byte record. -/
def Elem.fits : Space → Elem → Bool
  | .input, .byte _ => true
  | .bits, .byte _ => true
  | .out, .byte _ => true
  | .blob, .byte _ => true
  | .freq, .word32 _ => true
  | .node, .word64 _ => true
  | .code, .record r => r.length == 33
  | _, _ => false

/-- A host operation is well formed when the element it writes is one of the space's element type (R123: "e, one element of
the space's element type"). -/
def HostOp.wf : HostOp → Bool
  | .bufWrite sp _ e =>
    match Space.ofId sp with
    | none => true
    | some k => e.fits k
  | .regRead _ => true
  | .regWrite _ _ => true
  | .bufRead _ _ => true
  | .issue _ => true
  | .hwReset => true

end Machine
end Sys2Proof
end

