-- ==== Sys2Proof/Decode.lean ====
section
/-! DEFINITION. The command word (spec/30_encoding.md R90 to R94): its decoder, total and rejecting by name, and its encoder. -/

namespace Sys2Proof

/-- Why a word encodes no command (R93). -/
inductive DecodeError where
  /-- `zero` is 0000 and `op` is one of the reserved values 0x0, 0xC to 0xF. -/
  | reservedOp (op : BitVec 4)
  /-- Bits 7:4 are not 0000. -/
  | nonZeroField (zero : BitVec 4)
  deriving DecidableEq, Repr

/-- Field `op`, bits 3:0 (R90). -/
def opField (w : BitVec 8) : BitVec 4 := w.extractLsb' 0 4

/-- Field `zero`, bits 7:4 (R90). -/
def zeroField (w : BitVec 8) : BitVec 4 := w.extractLsb' 4 4

/-- The command of an opcode (R91). -/
def decodeOp (op : BitVec 4) : Except DecodeError Instr :=
  match op.toNat with
  | 0x1 => .ok .sreset
  | 0x2 => .ok .count
  | 0x3 => .ok .build
  | 0x4 => .ok .walk
  | 0x5 => .ok .emit
  | 0x6 => .ok .dect
  | 0x7 => .ok .decr
  | 0x8 => .ok .exportContainer
  | 0x9 => .ok .importContainer
  | 0xA => .ok .encode
  | 0xB => .ok .unpack
  | _ => .error (.reservedOp op)

/-- The decoder, total on the 256 command words: a word with bits 7:4 not zero is illegal, else its opcode decides (R91, R93). -/
def decode (w : BitVec 8) : Except DecodeError Instr :=
  if zeroField w = 0#4 then decodeOp (opField w) else .error (.nonZeroField (zeroField w))

/-- The opcode of a command (R91). -/
def opcode : Instr → BitVec 4
  | .sreset => 0x1#4
  | .count => 0x2#4
  | .build => 0x3#4
  | .walk => 0x4#4
  | .emit => 0x5#4
  | .dect => 0x6#4
  | .decr => 0x7#4
  | .exportContainer => 0x8#4
  | .importContainer => 0x9#4
  | .encode => 0xA#4
  | .unpack => 0xB#4

/-- The command word of a command: `zero` = 0000 above `op` (R90). -/
def encode (i : Instr) : BitVec 8 := (0#4 ++ opcode i : BitVec 8)

/-- The command the decoder reads from a word of `nbits` bits numbered as the opcode table numbers them: a command is one
byte long (R90, R94), and the bits above `nbits` are 0. -/
def decodeTableWord (nbits w : Nat) : Option Instr :=
  match decode (BitVec.ofNat 8 (w % 2 ^ nbits)) with
  | .ok i => some i
  | .error _ => none

end Sys2Proof
end

