-- ==== Sys2Proof/Machine/Bits.lean ====
section
/-! DEFINITION. Packing of bits into bytes, little-endian fields, and the packed host views of a node and of a code entry. -/

namespace Sys2Proof.Machine

/-- The byte whose bit (7 − i) is `f i` (00_scope.md R12). -/
def byteOfBits (f : Nat → Bool) : Byte := BitVec.ofBoolListBE [f 0, f 1, f 2, f 3, f 4, f 5, f 6, f 7]

/-- The eight bits of a byte, most significant first (R12, 20_memory.md R63). -/
def byteBits (v : Byte) : Bits :=
  [v.getMsbD 0, v.getMsbD 1, v.getMsbD 2, v.getMsbD 3, v.getMsbD 4, v.getMsbD 5, v.getMsbD 6, v.getMsbD 7]

/-- Byte j of `pack(b)`: bit (7 − i) is b[8j + i] when 8j + i < len(b) and 0 otherwise (R12). -/
def packByte (b : Bits) (j : Nat) : Byte := byteOfBits fun i => b.getD (8 * j + i) false

/-- `pack(b)`, of length ceil8(len(b)) (R12). -/
def pack (b : Bits) : List Byte := (List.range (ceil8 b.length)).map (packByte b)

/-- `unpack(B)`: element 8j + i is bit (7 − i) of B[j] (R12). -/
def unpack (B : List Byte) : Bits := B.flatMap byteBits

/-- `le32(v)`: four bytes, least significant first (R13). -/
def le32 (v : Nat) : List Byte :=
  [BitVec.ofNat 8 v, BitVec.ofNat 8 (v / 2 ^ 8), BitVec.ofNat 8 (v / 2 ^ 16), BitVec.ofNat 8 (v / 2 ^ 24)]

/-- `le16(v)`: two bytes, least significant first (R13). -/
def le16 (v : Nat) : List Byte := [BitVec.ofNat 8 v, BitVec.ofNat 8 (v / 2 ^ 8)]

/-- `unle32` and `unle16`: the number whose little-endian bytes are `B` (R13). -/
def unle : List Byte → Nat
  | [] => 0
  | b :: B => b.toNat + 2 ^ 8 * unle B

/-- Field kind of an entry: 0 FREE, 1 LEAF, 2 INTERNAL (10_state.md R31, R32). -/
def Node.kind : Node → BitVec 2
  | .free => 0#2
  | .leaf _ _ => 1#2
  | .internal _ _ _ => 2#2

/-- Field symbol: 0 for FREE and for INTERNAL (R31). -/
def Node.symbol : Node → Byte
  | .free => 0#8
  | .leaf s _ => s
  | .internal _ _ _ => 0#8

/-- Field weight: 0 for FREE (R31). -/
def Node.weight : Node → Word
  | .free => 0#32
  | .leaf _ w => w
  | .internal w _ _ => w

/-- Field left: NIL for FREE and for LEAF (R31). -/
def Node.left : Node → NodeIdx
  | .free => NIL
  | .leaf _ _ => NIL
  | .internal _ l _ => l

/-- Field right: NIL for FREE and for LEAF (R31). -/
def Node.right : Node → NodeIdx
  | .free => NIL
  | .leaf _ _ => NIL
  | .internal _ _ r => r

/-- The 64-bit host word of an entry: weight 31:0, left 40:32, right 49:41, symbol 57:50, kind 59:58, 0 in 63:60 (R32). -/
def Node.pack (n : Node) : BitVec 64 :=
  (0#4 ++ n.kind ++ n.symbol ++ n.right ++ n.left ++ n.weight : BitVec 64)

/-- The 33-byte host record of a code entry: the length, then `pack(code)` and zeros up to 32 bytes; absent is all zero
(R36). -/
def codeRecord : Option Code → List Byte
  | none => List.replicate 33 0#8
  | some c => BitVec.ofNat 8 c.length :: (pack c ++ List.replicate (32 - (pack c).length) 0#8)

/-- The code entry a written record E sets: absent when E[0] = 0, else the first E[0] bits of E[1..33) (R36,
40_host_access.md R123). -/
def ofRecord : List Byte → Option Code
  | [] => none
  | l :: bs => if l = 0#8 then none else some ((unpack bs).take l.toNat)

end Sys2Proof.Machine
end

