-- ==== Sys2Proof/Config.lean ====
section
/-! DEFINITION. What an instance fixes (00_scope.md R8, R9) and the free values. Parameters are no state (10_state.md R50):
every operation that uses one takes a `Params`; the values below are those of the one instance that `exec` and `step` run. -/

namespace Sys2Proof

/-- A table-block codec TBL = (TblSer, TblPar) (46_container_codec.md R232). -/
structure TblCodec where
  ser : CodeTable → List Byte
  par : List Byte → Option CodeTable

/-- The laws every table-block codec satisfies (R232 (a), (c), (d)); (b) follows from (a) and (e) holds of any function. -/
structure TblCodec.Lawful (c : TblCodec) : Prop where
  roundTrip : ∀ t : CodeTable, t.wf = true → c.par (c.ser t) = some t
  fitsLength : ∀ t : CodeTable, t.wf = true → (c.ser t).length < 2 ^ 32
  parsesTables : ∀ (b : List Byte) (t : CodeTable), c.par b = some t → t.wf = true

/-- The parameters of an instance (R9). -/
structure Params where
  maxInputLimit : Word
  maxInputReset : Word
  inCap : Nat
  bitsCap : Nat
  outCap : Nat
  blobCap : Nat
  magic : List Byte
  tbl : TblCodec

/-- The constraints R9 puts on the parameters, and the laws of TBL. -/
structure Params.Legal (P : Params) : Prop where
  limit : P.maxInputLimit.toNat ≤ 2 ^ 28 - 1
  resetLeLimit : P.maxInputReset.toNat ≤ P.maxInputLimit.toNat
  inCap : P.maxInputLimit.toNat ≤ P.inCap
  blobCap : P.maxInputLimit.toNat ≤ P.blobCap
  outCap : 8 * P.maxInputLimit.toNat ≤ P.outCap
  bitsCapLow : 8 * P.maxInputLimit.toNat ≤ P.bitsCap
  bitsCapHigh : P.bitsCap < 2 ^ 32
  magicLength : P.magic.length = 4
  tbl : P.tbl.Lawful

namespace Config

/-- FREE VALUE (log 7): what a read of byte `index` of a space draws at draw `draw`, where the spec says "any value"
(R37 to R40, 40_host_access.md R123, 70_reset_and_hazards.md R313). -/
opaque freeByte (draw space index : Nat) : Byte

/-- FREE VALUE (log 7): what a read of bit `index` of BITS draws at draw `draw` (R38, R313). -/
opaque freeBit (draw index : Nat) : Bool

/-- MAX_INPUT_LIMIT, OPEN in R9: DESIGN CHOICE, the value the vectors use (log 1). -/
def maxInputLimit : Word := 268435455#32

/-- MAX_INPUT_RESET, OPEN in R9: DESIGN CHOICE, the value the vectors use (log 1). -/
def maxInputReset : Word := 65536#32

/-- IN_CAP, OPEN in R9: DESIGN CHOICE, its lower bound MAX_INPUT_LIMIT (log 2). -/
def inCap : Nat := 268435455

/-- BITS_CAP, OPEN in R9: DESIGN CHOICE, its largest legal value, so that the fewest runs are refused (log 2). -/
def bitsCap : Nat := 4294967295

/-- OUT_CAP, OPEN in R9: DESIGN CHOICE, its lower bound 8 × MAX_INPUT_LIMIT, which no decode outgrows (R221, log 2). -/
def outCap : Nat := 2147483640

/-- BLOB_CAP, OPEN in R9: DESIGN CHOICE, MAX_INPUT_LIMIT + 8 + 8707, which no EXPORT with the default TBL outgrows
(46_container_codec.md R233, log 2). -/
def blobCap : Nat := 268444170

/-- MAGIC, OPEN in R9: DESIGN CHOICE, the spec's default "HUFF" (46_container_codec.md R227, log 3). -/
def magic : List Byte := [0x48#8, 0x55#8, 0x46#8, 0x46#8]

end Config
end Sys2Proof
end

