-- ==== Sys2Proof/Machine/State.lean ====
section
/-! DEFINITION. The state of one instance (10_state.md R20), its reset, and the reasons a step can stop. -/

namespace Sys2Proof.Machine

/-- The whole state (R20). CMD "holds no value between commands" (R24), so it has no field. The last three fields are the
model's own. A buffer lists the elements written since hardware reset, in rising order of index; an unlisted element reads
as any value (70_reset_and_hazards.md R313). -/
structure State where
  /-- STATUS, no 1 (R25) -/
  status : BitVec 8
  /-- CFG_MAX_INPUT, no 2 (R26) -/
  cfgMaxInput : Word
  /-- IN_LEN, no 3 (R27) -/
  inLen : Word
  /-- BITS_LEN, no 4 (R27) -/
  bitsLen : Word
  /-- OUT_LEN, no 5 (R28) -/
  outLen : Word
  /-- BLOB_LEN, no 6 (R27) -/
  blobLen : Word
  /-- ROOT, no 7 (R33) -/
  root : NodeIdx
  /-- UNIQUE, no 8 (R30) -/
  unique : BitVec 9
  /-- ORIG_BITS, no 9 (R41) -/
  origBits : Word
  /-- ENC_BITS, no 10 (R42) -/
  encBits : Word
  /-- RATIO_X100, no 11, two's complement (R43) -/
  ratioX100 : Word
  /-- ERR_SYM, no 12 (R44) -/
  errSym : Byte
  /-- ERR_POS, no 13 (R44) -/
  errPos : Word
  /-- FREQ[0..256) (R29) -/
  freq : FreqTable
  /-- NODE[0..511) (R31) -/
  node : Arena
  /-- CODE[0..256) (R35) -/
  code : CodeTable
  /-- IN (R37) -/
  input : List Host.Cell
  /-- BITS (R38) -/
  bits : List (Nat × Bool)
  /-- OUT (R39) -/
  out : List Host.Cell
  /-- BLOB (R40) -/
  blob : List Host.Cell
  /-- MODEL: what the host and the reset input will do next, first first (log 5) -/
  pending : List HostOp
  /-- MODEL: the result the last host operation returned (log 13) -/
  response : Option Elem
  /-- MODEL: the counter that keys the free values, one per step (log 7) -/
  draws : Nat
  deriving DecidableEq, Repr

/-- The faults of the machine: none. The block has no exception and never stops (60_exceptions.md R282): a condition is a
STATUS flag of a next state (R290). -/
inductive Fault where
  deriving DecidableEq, Repr

/-- Why the model gives a run no meaning. -/
inductive Refusal where
  /-- Raised by `exec`'s arm of an instruction that has no meaning yet (no arm of this model). Safe. -/
  | notModelled (mnemonic : String)
  /-- Raised by EMIT, EXPORT, DECT, DECR, IMPORT (alone or in a compound) when the output would outgrow its buffer:
  "a model must *refuse* that run (give it no meaning), never truncate or wrap" (20_memory.md R69). Safe (log 11). -/
  | bufferOverflow (sp : Space)
  /-- Raised by a BufWrite whose element is not of the space's element type, which is no operation of the spec
  (20_memory.md R65, 40_host_access.md R123). Safe (log 12). -/
  | illTypedElement
  deriving DecidableEq, Repr

/-- What a command answers. -/
abbrev Result := Host.Outcome State Fault Refusal

/-- The state after hardware reset of an instance whose MAX_INPUT_RESET is `maxInputReset` (R51, 70_reset_and_hazards.md
R310). -/
def State.powerOn (maxInputReset : Word) : State where
  status := 0#8
  cfgMaxInput := maxInputReset
  inLen := 0#32
  bitsLen := 0#32
  outLen := 0#32
  blobLen := 0#32
  root := NIL
  unique := 0#9
  origBits := 0#32
  encBits := 0#32
  ratioX100 := 0#32
  errSym := 0#8
  errPos := 0#32
  freq := Vector.replicate 256 0#32
  node := Vector.replicate 511 .free
  code := Vector.replicate 256 none
  input := []
  bits := []
  out := []
  blob := []
  pending := []
  response := none
  draws := 0

/-- The state after hardware reset (R51). -/
def State.reset : State := State.powerOn Config.maxInputReset

end Sys2Proof.Machine
end

