-- ==== Sys2Proof/Machine/Flags.lean ====
section
/-! DEFINITION. STATUS: its flags, how one is set, and when each command sets the informational ones. -/

namespace Sys2Proof.Machine

/-- STATUS.EMPTY, bit 0 (10_state.md R25, 30_encoding.md R95). -/
def EMPTY : BitVec 8 := 0x01#8
/-- STATUS.DEGRADED, bit 1 (R25, R95). -/
def DEGRADED : BitVec 8 := 0x02#8
/-- STATUS.UNKNOWN_SYMBOL, bit 2 (R25, R95). -/
def UNKNOWN_SYMBOL : BitVec 8 := 0x04#8
/-- STATUS.CAPACITY, bit 3 (R25, R95). -/
def CAPACITY : BitVec 8 := 0x08#8
/-- STATUS.ILLEGAL_CMD, bit 4 (R25, R95). -/
def ILLEGAL_CMD : BitVec 8 := 0x10#8
/-- "the fatal mask is 0x1C" (R95). -/
def fatalMask : BitVec 8 := 0x1C#8

/-- "Every issued command, legal or not, first clears STATUS to 0" (R25, 40_host_access.md R124). -/
def State.clearStatus (s : State) : State := { s with status := 0#8 }

/-- `flag <Condition>`: sets a flag and continues (00_scope.md R14). -/
def State.flag (f : BitVec 8) (s : State) : State := { s with status := s.status ||| f }

/-- `if c: flag <Condition>`. -/
def State.flagIf (c : Bool) (f : BitVec 8) (s : State) : State := if c then s.flag f else s

/-- A fatal flag is set: the command did not do its work (R95, 00_scope.md R19). -/
def State.fatal (s : State) : Bool := s.status &&& fatalMask != 0#8

end Sys2Proof.Machine
end

