-- ==== Sys2Proof/Machine/Ops.lean ====
section
/-! DEFINITION. The shared operations: a buffer as a list of written elements, the updates of the state, raising a condition,
the capacity check, a command and a sequence of stages. -/

namespace Sys2Proof.Machine

/-! ### Buffers -/

namespace Mem

/-- The element last written at index `i`, none when nothing has been written there. -/
def lookup {α : Type} (i : Nat) : List (Nat × α) → Option α
  | [] => none
  | (k, v) :: m => if k = i then some v else lookup i m

/-- Writes one element, keeping the list in rising order of index. -/
def write {α : Type} (i : Nat) (v : α) : List (Nat × α) → List (Nat × α)
  | [] => [(i, v)]
  | (k, w) :: m =>
    if i < k then (i, v) :: (k, w) :: m
    else if k = i then (i, v) :: m
    else (k, w) :: write i v m

/-- The cells that hold a sequence from index `i` on. -/
def cells {α : Type} (i : Nat) : List α → List (Nat × α)
  | [] => []
  | v :: l => (i, v) :: cells (i + 1) l

/-- `MemWrite(space, 0, len(l), l)` of a command that sets the length register of the buffer to len(l) (00_scope.md R14):
the elements below len(l) are written; those at or above it stay when the length did not shrink, and are unspecified, hence
unlisted, when it did (93_implementation_defined.md U6, 60_exceptions.md R290; log 9). -/
def replace {α : Type} (l : List α) (oldLen : Nat) (m : List (Nat × α)) : List (Nat × α) :=
  if l.length < oldLen then cells 0 l
  else cells 0 l ++ m.filter fun c => l.length ≤ c.1

/-- `MemRead(space, 0, n)`: an element nothing has written is a free value (70_reset_and_hazards.md R313). -/
def read {α : Type} (free : Nat → α) (n : Nat) (m : List (Nat × α)) : List α :=
  (List.range n).map fun i => (lookup i m).getD (free i)

/-- Rising from `lo` on, and below `cap`. -/
def risingFrom {α : Type} (lo cap : Nat) : List (Nat × α) → Bool
  | [] => true
  | (k, _) :: m => decide (lo ≤ k) && decide (k < cap) && risingFrom (k + 1) cap m

/-- The canonical form: indices strictly rising and all below the capacity. No unlisted element reads as a fixed value, so no
listed one is redundant. -/
def wf {α : Type} (cap : Nat) (m : List (Nat × α)) : Bool := risingFrom 0 cap m

end Mem

/-! ### Arena -/

/-- NODE[i]; there is no entry at NIL, whose fields read as those of a FREE entry (10_state.md R31). -/
def nodeAt (N : Arena) (i : NodeIdx) : Node := N[i.toNat]?.getD .free

/-- NODE[i] <- n. -/
def putNode (N : Arena) (i : Nat) (n : Node) : Arena := N.setIfInBounds i n

/-! ### Updates of the state -/

/-- COUNT's outputs (R137). -/
def State.withFreq (f : FreqTable) (u : BitVec 9) (s : State) : State := { s with freq := f, unique := u }

/-- BUILD's outputs (R152). -/
def State.withTree (N : Arena) (r : NodeIdx) (s : State) : State := { s with node := N, root := r }

/-- CODE as a whole (R172, R245). -/
def State.withCode (t : CodeTable) (s : State) : State := { s with code := t }

/-- BITS[0..BITS_LEN) <- b, BITS_LEN <- len(b), written by a command. -/
def State.withBits (b : Bits) (s : State) : State :=
  { s with bits := Mem.replace b s.bitsLen.toNat s.bits, bitsLen := BitVec.ofNat 32 b.length }

/-- OUT[0..OUT_LEN) <- l, OUT_LEN <- len(l), written by a command. -/
def State.withOut (l : List Byte) (s : State) : State :=
  { s with out := Mem.replace l s.outLen.toNat s.out, outLen := BitVec.ofNat 32 l.length }

/-- BLOB[0..BLOB_LEN) <- l, BLOB_LEN <- len(l), written by a command. -/
def State.withBlob (l : List Byte) (s : State) : State :=
  { s with blob := Mem.replace l s.blobLen.toNat s.blob, blobLen := BitVec.ofNat 32 l.length }

/-- ORIG_BITS, ENC_BITS, RATIO_X100 (44_bitstream_encoder.md R191). -/
def State.withStats (o e r : Word) (s : State) : State := { s with origBits := o, encBits := e, ratioX100 := r }

/-- ERR_SYM, ERR_POS (10_state.md R44). -/
def State.withErr (sym : Byte) (pos : Word) (s : State) : State := { s with errSym := sym, errPos := pos }

/-- EMIT's BITS_LEN <- 0 on UnknownSymbol: the contents of BITS beyond the new length are unspecified (60_exceptions.md R290;
log 10). -/
def State.dropBits (s : State) : State := { s with bits := [], bitsLen := 0#32 }

/-- The session baseline of SRESET (47_session_commands.md R260): all but CFG_MAX_INPUT and the contents of the buffers. -/
def State.clearSession (s : State) : State :=
  { s with
    freq := Vector.replicate 256 0#32, unique := 0#9
    node := Vector.replicate 511 .free, root := NIL
    code := Vector.replicate 256 none
    inLen := 0#32, bitsLen := 0#32, outLen := 0#32, blobLen := 0#32
    origBits := 0#32, encBits := 0#32, ratioX100 := 0#32
    errSym := 0#8, errPos := 0#32 }

/-- CFG_MAX_INPUT <- v (R26). -/
def State.setCfg (v : Word) (s : State) : State := { s with cfgMaxInput := v }

/-- IN_LEN <- v (R27). -/
def State.setInLen (v : Word) (s : State) : State := { s with inLen := v }

/-- BITS_LEN <- v, by the host: the contents of BITS stay (R27). -/
def State.setBitsLen (v : Word) (s : State) : State := { s with bitsLen := v }

/-- BLOB_LEN <- v, by the host: the contents of BLOB stay (R27). -/
def State.setBlobLen (v : Word) (s : State) : State := { s with blobLen := v }

/-- The contents of IN, written by the host. -/
def State.setInput (m : List Host.Cell) (s : State) : State := { s with input := m }

/-- The contents of BITS, written by the host. -/
def State.setBits (m : List (Nat × Bool)) (s : State) : State := { s with bits := m }

/-- The contents of BLOB, written by the host. -/
def State.setBlob (m : List Host.Cell) (s : State) : State := { s with blob := m }

/-- The result a host operation returns (log 13). -/
def State.respond (e : Elem) (s : State) : State := { s with response := some e }

/-- The host operation at the head of `pending` is taken: `rest` is left, nothing has been returned yet, and a fresh draw
is opened (log 5, 7, 13). -/
def State.accept (rest : List HostOp) (s : State) : State :=
  { s with pending := rest, response := none, draws := s.draws + 1 }

/-! ### Conditions, the capacity check, commands and stages -/

/-- `raise <Condition>`: the flag is set, the command ends, and control returns to the host; nothing is saved and control goes
nowhere inside the block (60_exceptions.md R290). There is no return, because nothing was entered (R291). -/
def raise (f : BitVec 8) (s : State) : Result := .next (s.flag f)

/-- The capacity check, the first thing a command does after STATUS is cleared: `len` is the byte length of the buffer the
command reads (60_exceptions.md R285). -/
def bounded (len : Nat) (body : State → Result) (s : State) : Result :=
  if s.cfgMaxInput.toNat < len then raise CAPACITY s else body s

/-- The next stage of a compound, run on the state the previous one left; a stage that set a fatal flag ends the compound
(47_session_commands.md R261, R262). Flags accumulate, so STATUS is the OR of the stages' flags. -/
def andThen (r : Result) (stage : State → Result) : Result :=
  match r with
  | .next s => if s.fatal then .next s else stage s
  | .fault f => .fault f
  | .refused f => .refused f

/-- A command: STATUS is cleared, then its rule runs to its end (40_host_access.md R124). -/
def command (body : State → Result) (s : State) : Result := body s.clearStatus

/-- A command that writes `len` elements to a buffer of `cap` elements is refused when they do not fit (20_memory.md R69). -/
def fitting (sp : Space) (cap len : Nat) (r : Result) : Result :=
  if cap < len then .refused (.bufferOverflow sp) else r

end Sys2Proof.Machine
end

