-- ==== Sys2Proof/Machine/Operands.lean ====
section
/-! DEFINITION. The operands of the commands: every operand is a fixed state element (30_encoding.md R92), an input sequence
being a buffer together with its length register. An element that nothing has written since hardware reset is a free value
keyed by the step's draw (70_reset_and_hazards.md R313, log 7, log 8). -/

namespace Sys2Proof.Machine

/-- IN[0..IN_LEN), operand of COUNT, EMIT, ENCODE (10_state.md R37). -/
def State.inputBytes (s : State) : List Byte := Mem.read (Config.freeByte s.draws 1) s.inLen.toNat s.input

/-- BITS[0..BITS_LEN), operand of DECT, DECR, EXPORT (R38). -/
def State.payload (s : State) : Bits := Mem.read (Config.freeBit s.draws) s.bitsLen.toNat s.bits

/-- OUT[0..OUT_LEN): what the host reads back (R39). -/
def State.outBytes (s : State) : List Byte := Mem.read (Config.freeByte s.draws 6) s.outLen.toNat s.out

/-- BLOB[0..BLOB_LEN), operand of IMPORT, UNPACK (R40). -/
def State.blobBytes (s : State) : List Byte := Mem.read (Config.freeByte s.draws 7) s.blobLen.toNat s.blob

/-- The byte length of IN that the capacity check compares (60_exceptions.md R285). -/
def State.inSize (s : State) : Nat := s.inLen.toNat

/-- The byte length of BITS that the capacity check compares: ceil8(BITS_LEN) (R285). -/
def State.bitsSize (s : State) : Nat := ceil8 s.bitsLen.toNat

/-- The byte length of BLOB that the capacity check compares (R285). -/
def State.blobSize (s : State) : Nat := s.blobLen.toNat

/-- The empty code table, every entry absent (R35, R246). -/
def emptyTable : CodeTable := Vector.replicate 256 none

end Sys2Proof.Machine
end

