-- ==== Sys2Proof/Machine/TableBlock.lean ====
section
/-! DEFINITION. The default table-block codec, version 1 (46_container_codec.md R233 to R235). -/

namespace Sys2Proof.Machine

/-- The entries of the symbols from `s` on that are present, ascending: symbol, length, `pack(code)` (R233, R234). -/
def serEntries (s : Nat) : List (Option Code) → List Byte
  | [] => []
  | none :: l => serEntries (s + 1) l
  | some c :: l => [BitVec.ofNat 8 s, BitVec.ofNat 8 c.length] ++ pack c ++ serEntries (s + 1) l

/-- `TblSer(T)`: version 0x01, le16(K), the K entries (R234). -/
def tblSer (t : CodeTable) : List Byte :=
  [0x01#8] ++ le16 (t.toList.countP Option.isSome) ++ serEntries 0 t.toList

/-- The K entries that begin `rest`, the next symbol being at least `lo`; none when an entry is cut off, out of order, of
length 0, or has a non-zero pad bit, or when bytes are left over (R235). -/
def parEntries : Nat → Nat → CodeTable → List Byte → Option CodeTable
  | 0, _, t, rest => if rest.isEmpty then some t else none
  | k + 1, lo, t, s :: l :: rest =>
    if s.toNat < lo then none
    else if l = 0#8 then none
    else if rest.length < ceil8 l.toNat then none
    else
      let u := unpack (rest.take (ceil8 l.toNat))
      if (u.drop l.toNat).any id then none
      else parEntries k (s.toNat + 1) (t.put s (some (u.take l.toNat))) (rest.drop (ceil8 l.toNat))
  | _ + 1, _, _, _ => none

/-- `TblPar(B)` (R235). -/
def tblPar : List Byte → Option CodeTable
  | v :: k0 :: k1 :: rest =>
    if v ≠ 0x01#8 then none
    else if 256 < unle [k0, k1] then none
    else parEntries (unle [k0, k1]) 0 (Vector.replicate 256 none) rest
  | _ => none

/-- The default TBL (R9, R233 to R235). -/
def defaultTbl : TblCodec := { ser := tblSer, par := tblPar }

/-- The parameters of the instance that `exec` and `step` run (Config.lean; log 1 to 4). -/
def params : Params where
  maxInputLimit := Config.maxInputLimit
  maxInputReset := Config.maxInputReset
  inCap := Config.inCap
  bitsCap := Config.bitsCap
  outCap := Config.outCap
  blobCap := Config.blobCap
  magic := Config.magic
  tbl := defaultTbl

end Sys2Proof.Machine
end

