-- ==== Sys2Proof/Machine/Container.lean ====
section
/-! DEFINITION. Unit U6, the container serializer and deserializer: EXPORT and IMPORT (46_container_codec.md). -/

namespace Sys2Proof.Machine

/-- `container(T, b) = MAGIC ++ le32(L) ++ B ++ pack(b)` with B = TblSer(T), L = len(B) (R228). -/
def container (P : Params) (t : CodeTable) (b : Bits) : List Byte :=
  P.magic ++ le32 (P.tbl.ser t).length ++ P.tbl.ser t ++ pack b

/-- The table and the bits of a well-formed container; none for every cause of MalformedContainer (R245, R247). `8 + L` is
computed without wrap-around. -/
def parseContainer (P : Params) (blob : List Byte) : Option (CodeTable × Bits) :=
  if blob.length < 8 then none
  else if blob.take 4 ≠ P.magic then none
  else
    let l := unle ((blob.drop 4).take 4)
    if blob.length < 8 + l then none
    else match P.tbl.par ((blob.drop 8).take l) with
      | none => none
      | some t => some (t, unpack (blob.drop (8 + l)))

/-- The body of EXPORT (R240). Padding is added to the bytes of BLOB only (R229). -/
def exportBody (P : Params) : State → Result := fun s => bounded s.bitsSize (fun s =>
  let blob := container P s.code s.payload
  fitting .blob P.blobCap blob.length (.next ((s.withBlob blob).flagIf (s.bitsLen == 0#32) EMPTY))) s

/-- The body of IMPORT, alone or as a stage (R245): the container's table and bits, or the degrade path "raw bits, no table"
(R246). -/
def importBody (P : Params) : State → Result := fun s => bounded s.blobSize (fun s =>
  match parseContainer P s.blobBytes with
  | some (t, b) =>
    fitting .bits P.bitsCap b.length (.next (((s.withCode t).withBits b).flagIf (s.blobLen == 0#32) EMPTY))
  | none =>
    let b := unpack s.blobBytes
    fitting .bits P.bitsCap b.length
      (.next ((((s.withCode emptyTable).withBits b).flag DEGRADED).flagIf (s.blobLen == 0#32) EMPTY))) s

/-- EXPORT, word 0x08 (R240). -/
def execExport (s : State) : Result := command (exportBody params) s

/-- IMPORT, word 0x09 (R245). -/
def execImport (s : State) : Result := command (importBody params) s

end Sys2Proof.Machine
end

