-- ==== Sys2Proof/Machine/Counter.lean ====
section
/-! DEFINITION. Unit U1, the frequency counter: COUNT (41_frequency_counter.md). -/

namespace Sys2Proof.Machine

/-- `FREQ[b] <- FREQ[b] + 1` (R137). The 32-bit sum never wraps in a COUNT (R138). -/
def countByte (f : FreqTable) (b : Byte) : FreqTable := f.put b (f.at b + 1#32)

/-- The counters after counting `x` from all zero (R135, R137). -/
def count (x : List Byte) : FreqTable := x.foldl countByte (Vector.replicate 256 0#32)

/-- The number of present symbols: entries that are at least 1 (10_state.md R30). -/
def present (f : FreqTable) : Nat := f.toList.countP (· != 0#32)

/-- The body of COUNT, alone or as a stage (R137). -/
def countBody : State → Result := fun s => bounded s.inSize (fun s =>
  .next ((s.withFreq (count s.inputBytes) (BitVec.ofNat 9 (present (count s.inputBytes)))).flagIf
    (s.inLen == 0#32) EMPTY)) s

/-- COUNT, word 0x02 (R137). -/
def execCount (s : State) : Result := command countBody s

end Sys2Proof.Machine
end

