-- ==== Sys2Proof/Machine/Decoder.lean ====
section
/-! DEFINITION. Unit U5, the FSM bit-stream decoder: DECT (table-walk) and DECR (tree-walk) (45_bitstream_decoder.md). -/

namespace Sys2Proof.Machine

/-- The least symbol whose code equals `buf`, if any (R202, R203): the inversion, recomputed from CODE at each use. -/
def matchCode (t : CodeTable) (buf : Bits) : Option Byte :=
  (t.toList.findIdx? (· == some buf)).map (BitVec.ofNat 8)

/-- The loop of DECT on the rest of the bits, the accumulator holding `buf`: the bytes it emits (R202). What is left in the
accumulator at the end is dropped (R204). -/
def dectFrom (t : CodeTable) : Bits → Bits → List Byte
  | _, [] => []
  | buf, b :: bs =>
    match matchCode t (buf ++ [b]) with
    | some s => s :: dectFrom t [] bs
    | none => dectFrom t (buf ++ [b]) bs

/-- `dect(b, T)` (R202). -/
def dect (t : CodeTable) (b : Bits) : List Byte := dectFrom t [] b

/-- The loop of DECR on the rest of the bits, the cursor at `cur`: the bytes it emits (R210). A bit that meets a NIL child is
consumed and the cursor goes back to the root (R211). -/
def decrFrom (N : Arena) (root : NodeIdx) : NodeIdx → Bits → List Byte
  | _, [] => []
  | cur, b :: bs =>
    let ch := if b then (nodeAt N cur).right else (nodeAt N cur).left
    if ch = NIL then decrFrom N root root bs
    else match nodeAt N ch with
      | .leaf s _ => s :: decrFrom N root root bs
      | .free => decrFrom N root ch bs
      | .internal _ _ _ => decrFrom N root ch bs

/-- `decr(b, NODE, ROOT)`; the empty tree gives no output (R210). -/
def decr (N : Arena) (root : NodeIdx) (b : Bits) : List Byte :=
  if root = NIL then [] else decrFrom N root root b

/-- What a decode command does with the bytes it emitted: OUT, OUT_LEN, EMPTY; refused beyond OUT_CAP (20_memory.md R69). -/
def emitDecoded (P : Params) (l : List Byte) (s : State) : Result :=
  fitting .out P.outCap l.length (.next ((s.withOut l).flagIf (s.bitsLen == 0#32) EMPTY))

/-- The body of DECT, alone or as a stage (R202). -/
def dectBody (P : Params) : State → Result := fun s => bounded s.bitsSize (fun s =>
  emitDecoded P (dect s.code s.payload) s) s

/-- The body of DECR (R210). -/
def decrBody (P : Params) : State → Result := fun s => bounded s.bitsSize (fun s =>
  emitDecoded P (decr s.node s.root s.payload) s) s

/-- DECT, word 0x06, with the second name DECODE (R202, 47_session_commands.md R267). -/
def execDect (s : State) : Result := command (dectBody params) s

/-- DECR, word 0x07 (R210). -/
def execDecr (s : State) : Result := command (decrBody params) s

end Sys2Proof.Machine
end

