-- ==== Sys2Proof/Machine/Encoder.lean ====
section
/-! DEFINITION. Unit U4, the barrel-shifter bit-stream encoder: EMIT (44_bitstream_encoder.md). -/

namespace Sys2Proof.Machine

/-- What the loop of EMIT has done when it ends: the bits written, and the first unmapped symbol with its index, if any. -/
structure EmitRun where
  bits : Bits
  unknown : Option (Byte × Nat)
  deriving DecidableEq, Repr

/-- The loop of EMIT on the rest of the input, which begins at index i (R186, R187). -/
def emitFrom (t : CodeTable) (i : Nat) : List Byte → EmitRun
  | [] => ⟨[], none⟩
  | b :: x =>
    match t.at b with
    | none => ⟨[], some (b, i)⟩
    | some c =>
      let r := emitFrom t (i + 1) x
      ⟨c ++ r.bits, r.unknown⟩

/-- `emit(x, T)` (R186). -/
def emit (t : CodeTable) (x : List Byte) : EmitRun := emitFrom t 0 x

/-- RATIO_X100: floor(10000 × (o − e) / o), 0 when o = 0; floor rounds toward minus infinity (10_state.md R43). -/
def ratioOf (o e : Nat) : Int := if o = 0 then 0 else (10000 * ((o : Int) - (e : Int))).fdiv (o : Int)

/-- The body of EMIT, alone or as a stage (R187, R189). A run whose bits would pass BITS_CAP, at whatever symbol, is refused
(20_memory.md R69; log 11). -/
def emitBody (P : Params) : State → Result := fun s => bounded s.inSize (fun s =>
  let r := emit s.code s.inputBytes
  fitting .bits P.bitsCap r.bits.length
    (match r.unknown with
    | some (sym, pos) => raise UNKNOWN_SYMBOL (s.dropBits.withErr sym (BitVec.ofNat 32 pos))
    | none =>
      .next (((s.withBits r.bits).withStats (BitVec.ofNat 32 (8 * s.inLen.toNat)) (BitVec.ofNat 32 r.bits.length)
        (BitVec.ofInt 32 (ratioOf (8 * s.inLen.toNat) r.bits.length))).flagIf (s.inLen == 0#32) EMPTY))) s

/-- EMIT, word 0x05 (R187). -/
def execEmit (s : State) : Result := command (emitBody params) s

end Sys2Proof.Machine
end

