-- ==== Sys2Proof/Machine/TreeBuilder.lean ====
section
/-! DEFINITION. Unit U2, the Huffman tree builder: BUILD (42_tree_builder.md). -/

namespace Sys2Proof.Machine

/-- The key of a live node: its weight and its arena index (R153). -/
structure Key where
  weight : Word
  index : NodeIdx
  deriving DecidableEq, Repr

/-- "smaller weight first, and among equal weights the smaller index first" (R153). -/
def Key.before (a b : Key) : Bool :=
  decide (a.weight.toNat < b.weight.toNat) ||
    (a.weight == b.weight && decide (a.index.toNat < b.index.toNat))

/-- `popmin(live)`: the member with the least key, and the others (R153). -/
def popMin : List Key → Option (Key × List Key)
  | [] => none
  | k :: live =>
    match popMin live with
    | none => some (k, [])
    | some (m, rest) => if k.before m then some (k, m :: rest) else some (m, k :: rest)

/-- BUILD's arena and its hidden state: the live set and the next internal index (10_state.md R45). -/
structure Build where
  node : Arena
  live : List Key
  next : Nat
  deriving DecidableEq, Repr

/-- One step of phase INIT: the leaf of symbol `s` when FREQ[s] ≥ 1 (R152, R159). -/
def initLeaf (f : FreqTable) (b : Build) (s : Byte) : Build :=
  if f.at s = 0#32 then b
  else { b with
    node := putNode b.node s.toNat (.leaf s (f.at s))
    live := b.live ++ [⟨f.at s, s.setWidth 9⟩] }

/-- The arena with the leaves of the present symbols, all of them live (R152). -/
def initLeaves (f : FreqTable) : Build :=
  ((List.range 256).map (BitVec.ofNat 8)).foldl (initLeaf f)
    { node := Vector.replicate 511 .free, live := [], next := 256 }

/-- One iteration of the merge loop: two pops, one arena write, one push; none when fewer than two nodes are live (R152).
The first popped is the left child, the second the right child (R153 (d)). -/
def mergeStep (b : Build) : Option Build :=
  match popMin b.live with
  | none => none
  | some (x, live1) =>
    match popMin live1 with
    | none => none
    | some (y, live2) =>
      let w := x.weight + y.weight
      some {
        node := putNode b.node b.next (.internal w x.index y.index)
        live := live2 ++ [⟨w, BitVec.ofNat 9 b.next⟩]
        next := b.next + 1 }

/-- The merge loop. `n` bounds the iterations; the loop takes k − 1 ≤ 255 of them (R156). -/
def mergeLoop : Nat → Build → Build
  | 0, b => b
  | n + 1, b =>
    match mergeStep b with
    | none => b
    | some b' => mergeLoop n b'

/-- NODE and ROOT as BUILD makes them from FREQ (R152, R154 to R156). -/
def buildTree (f : FreqTable) : Arena × NodeIdx :=
  let b := initLeaves f
  match b.live with
  | [] => (b.node, NIL)
  | [k] => (putNode b.node 256 (.internal k.weight k.index NIL), 256#9)
  | _ :: _ :: _ =>
    let b' := mergeLoop 256 b
    match b'.live with
    | [] => (b'.node, NIL)
    | k :: _ => (b'.node, k.index)

/-- The body of BUILD, alone or as a stage (R152). EMPTY when no symbol is present. -/
def buildBody (s : State) : Result :=
  .next ((s.withTree (buildTree s.freq).1 (buildTree s.freq).2).flagIf (s.freq.toList.all (· == 0#32)) EMPTY)

/-- BUILD, word 0x03 (R152). -/
def execBuild (s : State) : Result := command buildBody s

end Sys2Proof.Machine
end

