-- ==== Sys2Proof/Machine/Walker.lean ====
section
/-! DEFINITION. Unit U3, the code-table tree-walker: WALK (43_code_table_walker.md). -/

namespace Sys2Proof.Machine

/-- `paths(N, r, p)`: the pairs (symbol, code) below index r, left subtree before right (R171, R174). `n` bounds the depth: no
path of an arena without a cycle has more than 511 nodes (log 14). -/
def paths : Nat → Arena → NodeIdx → Bits → List (Byte × Code)
  | 0, _, _, _ => []
  | n + 1, N, r, p =>
    if r = NIL then []
    else match nodeAt N r with
      | .free => []
      | .leaf s _ => [(s, if p.isEmpty then [false] else p)]
      | .internal _ l r' => paths n N l (p ++ [false]) ++ paths n N r' (p ++ [true])

/-- `codes(N, root) = paths(N, root, [])` (R171). -/
def codes (N : Arena) (root : NodeIdx) : List (Byte × Code) := paths 512 N root []

/-- CODE after `CODE[s] <- c` for each pair, from all absent (R172). -/
def tableOf (ps : List (Byte × Code)) : CodeTable :=
  ps.foldl (fun t (s, c) => t.put s (some c)) emptyTable

/-- The table WALK makes from a tree (R172). -/
def walkTable (N : Arena) (root : NodeIdx) : CodeTable := tableOf (codes N root)

/-- The body of WALK, alone or as a stage (R172). -/
def walkBody (s : State) : Result :=
  .next ((s.withCode (walkTable s.node s.root)).flagIf (s.root == NIL) EMPTY)

/-- WALK, word 0x04 (R172). -/
def execWalk (s : State) : Result := command walkBody s

end Sys2Proof.Machine
end

