-- ==== Sys2Proof/Machine/Session.lean ====
section
/-! DEFINITION. The session command SRESET and the compound commands ENCODE and UNPACK (47_session_commands.md). -/

namespace Sys2Proof.Machine

/-- The body of SRESET: the session baseline; no flag (R260). -/
def sresetBody (s : State) : Result := .next s.clearSession

/-- ENCODE: one capacity check, then the stages COUNT, BUILD, WALK, EMIT (R261, R263). -/
def encodeBody (P : Params) : State → Result := fun s => bounded s.inSize (fun s =>
  andThen (andThen (andThen (countBody s) buildBody) walkBody) (emitBody P)) s

/-- UNPACK: one capacity check, then the stages IMPORT, DECT (R261, R266). -/
def unpackBody (P : Params) : State → Result := fun s => bounded s.blobSize (fun s =>
  andThen (importBody P s) (dectBody P)) s

/-- SRESET, word 0x01 (R260). -/
def execSreset (s : State) : Result := command sresetBody s

/-- ENCODE, word 0x0A (R263). -/
def execEncode (s : State) : Result := command (encodeBody params) s

/-- UNPACK, word 0x0B (R266). -/
def execUnpack (s : State) : Result := command (unpackBody params) s

end Sys2Proof.Machine
end

