-- ==== Sys2Proof/Machine/Dispatch.lean ====
section
/-! DEFINITION. One arm per command. -/

namespace Sys2Proof.Machine

def exec (i : Instr) (s : State) : Host.Outcome State Fault Refusal :=
  match i with
  | .sreset => Sys2Proof.Machine.execSreset s
  | .count => Sys2Proof.Machine.execCount s
  | .build => Sys2Proof.Machine.execBuild s
  | .walk => Sys2Proof.Machine.execWalk s
  | .emit => Sys2Proof.Machine.execEmit s
  | .dect => Sys2Proof.Machine.execDect s
  | .decr => Sys2Proof.Machine.execDecr s
  | .exportContainer => Sys2Proof.Machine.execExport s
  | .importContainer => Sys2Proof.Machine.execImport s
  | .encode => Sys2Proof.Machine.execEncode s
  | .unpack => Sys2Proof.Machine.execUnpack s

end Sys2Proof.Machine
end

