-- ==== Sys2Proof/Machine/HostAccess.lean ====
section
/-! DEFINITION. The host operations (40_host_access.md) but for the issue of a command, and the hardware reset input. -/

namespace Sys2Proof.Machine

/-- RegRead(n): the register zero-extended to 32 bits; 0 for CMD and for n ≥ 14 (R121, 10_state.md R23). -/
def regRead (n : Nat) (s : State) : Word :=
  match n with
  | 1 => s.status.setWidth 32
  | 2 => s.cfgMaxInput
  | 3 => s.inLen
  | 4 => s.bitsLen
  | 5 => s.outLen
  | 6 => s.blobLen
  | 7 => s.root.setWidth 32
  | 8 => s.unique.setWidth 32
  | 9 => s.origBits
  | 10 => s.encBits
  | 11 => s.ratioX100
  | 12 => s.errSym.setWidth 32
  | 13 => s.errPos
  | _ => 0#32

/-- min(v, MAX_INPUT_LIMIT) (R26, R122). -/
def clampCfg (P : Params) (v : Word) : Word := if v.toNat ≤ P.maxInputLimit.toNat then v else P.maxInputLimit

/-- RegWrite(n, v) for n ≠ 0: a read-only or reserved register is not written (R122). -/
def regWrite (P : Params) (n : Nat) (v : Word) (s : State) : State :=
  match n with
  | 2 => s.setCfg (clampCfg P v)
  | 3 => s.setInLen v
  | 4 => s.setBitsLen v
  | 6 => s.setBlobLen v
  | _ => s

/-- The number of elements of a space (20_memory.md R60). -/
def Space.size (P : Params) : Space → Nat
  | .input => P.inCap
  | .freq => 256
  | .node => 511
  | .code => 256
  | .bits => ceil8 P.bitsCap
  | .out => P.outCap
  | .blob => P.blobCap

/-- What a read outside a space returns: 0, as an element of the space (R67, R123; log 13). -/
def Space.zero : Space → Elem
  | .input => .byte 0#8
  | .freq => .word32 0#32
  | .node => .word64 0#64
  | .code => .record (List.replicate 33 0#8)
  | .bits => .byte 0#8
  | .out => .byte 0#8
  | .blob => .byte 0#8

/-- One byte of a byte buffer: the byte last written there, or any value (R37, R313). -/
def byteOrFree (free : Byte) (i : Nat) (m : List Host.Cell) : Byte := (Mem.lookup i m).getD free

/-- The element i of a space, i below its size (R123). -/
def readElem (k : Space) (i : Nat) (s : State) : Elem :=
  match k with
  | .input => .byte (byteOrFree (Config.freeByte s.draws 1 i) i s.input)
  | .freq => .word32 (s.freq.at (BitVec.ofNat 8 i))
  | .node => .word64 (nodeAt s.node (BitVec.ofNat 9 i)).pack
  | .code => .record (codeRecord (s.code.at (BitVec.ofNat 8 i)))
  | .bits =>
    .byte (if i < ceil8 s.bitsLen.toNat then
        byteOfBits fun k =>
          if 8 * i + k < s.bitsLen.toNat then
            (Mem.lookup (8 * i + k) s.bits).getD (Config.freeBit s.draws (8 * i + k))
          else false
      else Config.freeByte s.draws 5 i)
  | .out =>
    .byte (if i < s.outLen.toNat then byteOrFree (Config.freeByte s.draws 6 i) i s.out
      else Config.freeByte s.draws 6 i)
  | .blob =>
    .byte (if i < s.blobLen.toNat then byteOrFree (Config.freeByte s.draws 7 i) i s.blob
      else Config.freeByte s.draws 7 i)

/-- BufRead(sp, i): 0 when the index or the space is out of range (R67, R123). -/
def bufRead (P : Params) (sp i : Nat) (s : State) : Elem :=
  match Space.ofId sp with
  | none => .word32 0#32
  | some k => if i < k.size P then readElem k i s else k.zero

/-- The bits of byte j of the byte view of BITS that lie below BITS_CAP, written from bit k on (R38, R123). -/
def writeBits (cap j : Nat) (v : Byte) (m : List (Nat × Bool)) : List (Nat × Bool) :=
  (List.range 8).foldl (fun m k => if 8 * j + k < cap then Mem.write (8 * j + k) (v.getMsbD k) m else m) m

/-- The element i of a space, i below its size, replaced; a read-only space is not written (R70, R123). -/
def writeElem (P : Params) (k : Space) (i : Nat) (e : Elem) (s : State) : State :=
  match k, e with
  | .input, .byte b => s.setInput (Mem.write i b s.input)
  | .blob, .byte b => s.setBlob (Mem.write i b s.blob)
  | .bits, .byte b => s.setBits (writeBits P.bitsCap i b s.bits)
  | .code, .record r => s.withCode (s.code.put (BitVec.ofNat 8 i) (ofRecord r))
  | _, _ => s

/-- BufWrite(sp, i, e): no effect on a read-only space and out of range (R67, R123). -/
def bufWrite (P : Params) (sp i : Nat) (e : Elem) (s : State) : State :=
  match Space.ofId sp with
  | none => s
  | some k => if i < k.size P then writeElem P k i e s else s

/-- The hardware reset of the instance `P`: every element at its reset value, CFG_MAX_INPUT at P's MAX_INPUT_RESET; the model's
own `pending` and `draws` go on (70_reset_and_hazards.md R310; log 16). -/
def hwReset (P : Params) (s : State) : State :=
  { State.powerOn P.maxInputReset with pending := s.pending, draws := s.draws }

/-- The command word an operation issues: Issue(c), and RegWrite(0, v) with c = v[7:0] (R122, R124). -/
def commandWord : HostOp → Option (BitVec 8)
  | .issue c => some c
  | .regWrite 0 v => some (v.setWidth 8)
  | .regWrite (_ + 1) _ => none
  | .regRead _ => none
  | .bufRead _ _ => none
  | .bufWrite _ _ _ => none
  | .hwReset => none

/-- The host operations that issue no command, and the hardware reset (R121 to R123, R310). A write of an element that is not
of the space's type is no operation of the spec (log 12). -/
def access (P : Params) (op : HostOp) (s : State) : Result :=
  match op with
  | .regRead n => .next (s.respond (.word32 (regRead n s)))
  | .regWrite n v => .next (regWrite P n v s)
  | .bufRead sp i => .next (s.respond (bufRead P sp i s))
  | .bufWrite sp i e => if (HostOp.bufWrite sp i e).wf then .next (bufWrite P sp i e s) else .refused .illTypedElement
  | .issue _ => .next s
  | .hwReset => .next (hwReset P s)

/-- A word that encodes no command: STATUS is cleared, ILLEGAL_CMD is raised, nothing else changes (30_encoding.md R93,
60_exceptions.md R286). -/
def illegalCommand (s : State) : Result := command (raise ILLEGAL_CMD) s

/-- No host operation is waiting: the block is idle and nothing changes (R310 "After reset the block is idle and accepts host
operations"; log 5). -/
def idle (s : State) : Result := .next s

end Sys2Proof.Machine
end

