-- ==== Sys2Proof/Machine/Instance.lean ====
section
/-! DEFINITION. The machine of any instance: the OPEN parameters of 00_scope.md R9 are an argument ("Each is an argument of the
model"). `exec`, `step` and `core` are the machine at the one instance `params` (log 1 to 4). -/

namespace Sys2Proof.Machine

/-- The commands of the instance `P`. -/
def execAt (P : Params) (i : Instr) (s : State) : Result :=
  match i with
  | .sreset => execSreset s
  | .count => execCount s
  | .build => execBuild s
  | .walk => execWalk s
  | .emit => command (emitBody P) s
  | .dect => command (dectBody P) s
  | .decr => command (decrBody P) s
  | .exportContainer => command (exportBody P) s
  | .importContainer => command (importBody P) s
  | .encode => command (encodeBody P) s
  | .unpack => command (unpackBody P) s

/-- Issue(c), where `run` runs the commands: the decoded command runs, or the word is illegal (40_host_access.md R124). -/
def issueWith (run : Instr → State → Result) (c : BitVec 8) (s : State) : Result :=
  match decode c with
  | .ok i => run i s
  | .error _ => illegalCommand s

/-- The first host operation that waits, run to its end (00_scope.md R6, 40_host_access.md R120); none leaves the block idle. -/
def stepWith (run : Instr → State → Result) (P : Params) (s : State) : Result :=
  match s.pending with
  | [] => idle s
  | op :: rest =>
    match commandWord op with
    | some c => issueWith run c (s.accept rest)
    | none => access P op (s.accept rest)

/-- One step of the instance `P`. -/
def stepAt (P : Params) (s : State) : Result := stepWith (execAt P) P s

/-- The state of the instance `P` after hardware reset (10_state.md R51). -/
def resetAt (P : Params) : State := State.powerOn P.maxInputReset

/-- The instance `P` as a machine. -/
def coreAt (P : Params) : Host.Core :=
  { State := State, Fault := Fault, Refusal := Refusal, step := stepAt P, reset := resetAt P }

end Sys2Proof.Machine
end

