-- ==== Sys2Proof/Machine/Step.lean ====
section
/-! DEFINITION. One step of the instance that `core` is: `stepWith` of Instance.lean with `exec` and `params`. -/

namespace Sys2Proof.Machine

/-- Issue(c) (40_host_access.md R124). -/
def issue (c : BitVec 8) (s : State) : Host.Outcome State Fault Refusal := issueWith exec c s

/-- One step of the block. -/
def step (s : State) : Host.Outcome State Fault Refusal := stepWith exec params s

/-- `s` with the command of the table word `w` as the host's next operation: the block fetches no program (10_state.md R21),
so a command comes to run by the host issuing it (log 6). -/
def State.withFetchWord (s : State) (nbits w : Nat) : State :=
  { s with pending := .issue (BitVec.ofNat 8 (w % 2 ^ nbits)) :: s.pending }

end Sys2Proof.Machine
end

