-- ==== Sys2Proof/Machine/Finer.lean ====
section
/-! DEFINITION. The per-item steps of the units: the finer, unobservable models the spec gives beside each command
(00_scope.md R6), with the hidden state of 10_state.md R45 to R49. No step of the machine runs them (log 18); what they compute
is compared with the commands' functions in the statements. -/

namespace Sys2Proof.Machine

/-! ### U1 (41_frequency_counter.md R139) -/

/-- COUNT's per-item state: the index and the counters. -/
structure CountFsm where
  i : Nat
  freq : FreqTable
  deriving DecidableEq, Repr

/-- After the clear (R139). -/
def CountFsm.start : CountFsm := ⟨0, Vector.replicate 256 0#32⟩

/-- "read b = IN[i]; FREQ[b] <- FREQ[b] + 1; i <- i + 1" while i < IN_LEN (R139). -/
def CountFsm.step (x : List Byte) (c : CountFsm) : CountFsm :=
  match x[c.i]? with
  | none => c
  | some b => ⟨c.i + 1, countByte c.freq b⟩

/-! ### U2 (42_tree_builder.md R159) -/

/-- The phases of BUILD: INIT at symbol `s`, MERGE, DONE, and the end of the command. -/
inductive BuildPhase where
  | init (s : Nat)
  | merge
  | done
  | ended
  deriving DecidableEq, Repr

/-- BUILD's per-item state: the phase, the arena with the live set and `next`, and ROOT. -/
structure BuildFsm where
  phase : BuildPhase
  build : Build
  root : NodeIdx
  deriving DecidableEq, Repr

/-- Every entry FREE, nothing live. -/
def BuildFsm.start : BuildFsm :=
  ⟨.init 0, { node := Vector.replicate 511 .free, live := [], next := 256 }, NIL⟩

/-- The phase after the last INIT step: MERGE, or DONE when no symbol is present (R159: max(k − 1, 0) MERGE steps). -/
def Build.afterInit (b : Build) : BuildPhase := if b.live.isEmpty then .done else .merge

/-- The phase after a MERGE step: DONE when one node is left. -/
def Build.afterMerge (b : Build) : BuildPhase := if b.live.length ≤ 1 then .done else .merge

/-- The one MERGE step of the one-symbol table: it writes NODE[256] (R155, R159). -/
def Build.syntheticRoot (b : Build) (k : Key) : Build :=
  { node := putNode b.node 256 (.internal k.weight k.index NIL), live := [⟨k.weight, 256#9⟩], next := 257 }

/-- One step: INIT makes the leaf of one symbol, MERGE is one iteration of the loop or writes the synthetic root, DONE writes ROOT
and empties the live set (R152, R159). -/
def BuildFsm.step (f : FreqTable) (m : BuildFsm) : BuildFsm :=
  match m.phase with
  | .init s =>
    let b := initLeaf f m.build (BitVec.ofNat 8 s)
    { m with phase := if s < 255 then .init (s + 1) else b.afterInit, build := b }
  | .merge =>
    match m.build.live with
    | [] => { m with phase := .done }
    | [k] => { m with phase := .done, build := m.build.syntheticRoot k }
    | _ :: _ :: _ =>
      match mergeStep m.build with
      | none => { m with phase := .done }
      | some b => { m with phase := b.afterMerge, build := b }
  | .done => { phase := .ended, build := { m.build with live := [] }, root := (m.build.live.head?.map Key.index).getD NIL }
  | .ended => m

/-- The number of MERGE steps for k present symbols (R159). -/
def mergeSteps (k : Nat) : Nat := if k = 1 then 1 else k - 1

/-! ### U3 (43_code_table_walker.md R174) -/

/-- WALK's per-item state: the stack of (index, path) pairs and CODE. -/
structure WalkFsm where
  stack : List (NodeIdx × Bits)
  code : CodeTable
  deriving DecidableEq, Repr

/-- "initially [(ROOT, [])] or empty when ROOT = NIL" (R174). -/
def WalkFsm.start (root : NodeIdx) : WalkFsm := ⟨if root = NIL then [] else [(root, [])], emptyTable⟩

/-- Pop one pair: a leaf writes its code; an internal node pushes the right child, when there is one, then the left child
(R174). -/
def WalkFsm.step (N : Arena) (m : WalkFsm) : WalkFsm :=
  match m.stack with
  | [] => m
  | (i, p) :: rest =>
    match nodeAt N i with
    | .free => { m with stack := rest }
    | .leaf s _ => ⟨rest, m.code.put s (some p)⟩
    | .internal _ l r =>
      { m with stack := (l, p ++ [false]) :: if r = NIL then rest else (r, p ++ [true]) :: rest }

/-! ### U4 (44_bitstream_encoder.md R188) -/

/-- EMIT's per-item state: the input index, the bit position, the bits written, and the first unmapped symbol. -/
structure EmitFsm where
  i : Nat
  p : Nat
  bits : Bits
  unknown : Option (Byte × Nat)
  deriving DecidableEq, Repr

/-- "Both start at 0 in every EMIT" (10_state.md R47). -/
def EmitFsm.start : EmitFsm := ⟨0, 0, [], none⟩

/-- One input symbol: look up its code, merge it at the bit position, advance by its length (R188). -/
def EmitFsm.step (t : CodeTable) (x : List Byte) (m : EmitFsm) : EmitFsm :=
  match m.unknown with
  | some _ => m
  | none =>
    match x[m.i]? with
    | none => m
    | some b =>
      match t.at b with
      | none => { m with unknown := some (b, m.i) }
      | some c => ⟨m.i + 1, m.p + c.length, m.bits ++ c, none⟩

/-! ### U5 (45_bitstream_decoder.md R206, R207, R213) -/

/-- DECT's per-item state: the accumulator of at most 255 bits, the mark "never matches again", the bytes emitted. -/
structure TableFsm where
  buf : Bits
  dead : Bool
  out : List Byte
  deriving DecidableEq, Repr

/-- The accumulator is empty at the start (10_state.md R48). -/
def TableFsm.start : TableFsm := ⟨[], false, []⟩

/-- The named states of the table-walk FSM (R207). -/
inductive TableFsmState where
  | atRoot
  | accumulate
  | dead
  deriving DecidableEq, Repr

/-- Which named state the FSM is in (R207). -/
def TableFsm.state (m : TableFsm) : TableFsmState :=
  if m.dead then .dead else if m.buf.isEmpty then .atRoot else .accumulate

/-- One input bit: append, compare, emit on a hit; a buffer of more than 255 bits matches nothing any more (R206, R207). -/
def TableFsm.step (t : CodeTable) (m : TableFsm) (b : Bool) : TableFsm :=
  if m.dead then m
  else
    match matchCode t (m.buf ++ [b]) with
    | some s => ⟨[], false, m.out ++ [s]⟩
    | none => if 255 < (m.buf ++ [b]).length then ⟨[], true, m.out⟩ else ⟨m.buf ++ [b], false, m.out⟩

/-- DECR's per-item state: the cursor and the bytes emitted (R213). -/
structure TreeFsm where
  cur : NodeIdx
  out : List Byte
  deriving DecidableEq, Repr

/-- The cursor starts at ROOT (10_state.md R48). -/
def TreeFsm.start (root : NodeIdx) : TreeFsm := ⟨root, []⟩

/-- One input bit, as the loop body of R210. -/
def TreeFsm.step (N : Arena) (root : NodeIdx) (m : TreeFsm) (b : Bool) : TreeFsm :=
  let ch := if b then (nodeAt N m.cur).right else (nodeAt N m.cur).left
  if ch = NIL then { m with cur := root }
  else match nodeAt N ch with
    | .leaf s _ => ⟨root, m.out ++ [s]⟩
    | .free => { m with cur := ch }
    | .internal _ _ _ => { m with cur := ch }

/-! ### U6 (46_container_codec.md R250) -/

/-- The phases of the container codec (10_state.md R49). -/
inductive CodecPhase where
  | magic
  | length
  | table
  | payload
  deriving DecidableEq, Repr

/-- The phase a blob index falls in, for a table block of L bytes (R228, R250). -/
def CodecPhase.at (l i : Nat) : CodecPhase :=
  if i < 4 then .magic else if i < 8 then .length else if i < 8 + l then .table else .payload

/-- EXPORT's per-item state: the write index and the bytes written. -/
structure ExportFsm where
  i : Nat
  blob : List Byte
  deriving DecidableEq, Repr

/-- Nothing written yet. -/
def ExportFsm.start : ExportFsm := ⟨0, []⟩

/-- The byte EXPORT writes at index i, by phase (R250). -/
def exportByte (P : Params) (t : CodeTable) (b : Bits) (i : Nat) : Byte :=
  match CodecPhase.at (P.tbl.ser t).length i with
  | .magic => P.magic.getD i 0#8
  | .length => (le32 (P.tbl.ser t).length).getD (i - 4) 0#8
  | .table => (P.tbl.ser t).getD (i - 8) 0#8
  | .payload => packByte b (i - 8 - (P.tbl.ser t).length)

/-- "one step per blob byte written, in index order" (R250). -/
def ExportFsm.step (P : Params) (t : CodeTable) (b : Bits) (m : ExportFsm) : ExportFsm :=
  if m.i < 8 + (P.tbl.ser t).length + ceil8 b.length then ⟨m.i + 1, m.blob ++ [exportByte P t b m.i]⟩ else m

/-- IMPORT's per-item state: the read index, whether the magic tag matches so far, the length field, the table bytes and
the payload bits. -/
structure ImportFsm where
  i : Nat
  magicOk : Bool
  len : Nat
  table : List Byte
  payload : Bits
  deriving DecidableEq, Repr

/-- Nothing read yet. -/
def ImportFsm.start : ImportFsm := ⟨0, true, 0, [], []⟩

/-- One blob byte in index order, through the phases (R250). -/
def ImportFsm.step (P : Params) (m : ImportFsm) (b : Byte) : ImportFsm :=
  if m.i < 4 then { m with i := m.i + 1, magicOk := m.magicOk && P.magic[m.i]? == some b }
  else if m.i < 8 then { m with i := m.i + 1, len := m.len + b.toNat * 2 ^ (8 * (m.i - 4)) }
  else if m.i < 8 + m.len then { m with i := m.i + 1, table := m.table ++ [b] }
  else { m with i := m.i + 1, payload := m.payload ++ byteBits b }

/-- The result at the end of the blob: the whole container, or the fallback (R245, R250). -/
def ImportFsm.result (P : Params) (m : ImportFsm) : Option (CodeTable × Bits) :=
  if m.i < 8 then none
  else if !m.magicOk then none
  else if m.i < 8 + m.len then none
  else (P.tbl.par m.table).map fun t => (t, m.payload)

end Sys2Proof.Machine
end

