-- ==== Sys2Proof/Safety.lean ====
section
/-! DEFINITION. The terms the statements use: what a buffer holds, prefix-free tables, paths of a tree, the well-formed tree,
and the invariant of the machine. -/

namespace Sys2Proof.Machine

/-- The buffer holds the sequence `l` from index 0 on: each of its elements has been written. -/
def Holds {α : Type} (m : List (Nat × α)) (l : List α) : Prop :=
  ∀ (i : Nat) (h : i < l.length), Mem.lookup i m = some l[i]

/-- "neither code is a prefix of the other" for all distinct symbols of the table (43_code_table_walker.md R176). -/
def PrefixFree (t : CodeTable) : Prop :=
  ∀ (a b : Byte) (c d : Code), a ≠ b → t.at a = some c → t.at b = some d → ¬ c <+: d

/-- The table has an entry for every byte of `x` (45_bitstream_decoder.md R215). -/
def Covers (t : CodeTable) (x : List Byte) : Prop := ∀ b ∈ x, (t.at b).isSome = true

/-- The code of a symbol, empty when absent. -/
def codeOf (t : CodeTable) (b : Byte) : Code := (t.at b).getD []

/-- `c` labels the path of edges from index `i` to the leaf of `s`, 0 = left, 1 = right, first edge first
(30_encoding.md R100). -/
inductive PathTo (N : Arena) : NodeIdx → Bits → Byte → Prop where
  | leaf {i : NodeIdx} {s : Byte} {w : Word} (h : nodeAt N i = .leaf s w) : PathTo N i [] s
  | left {i l r : NodeIdx} {w : Word} {p : Bits} {s : Byte} (h : nodeAt N i = .internal w l r) (t : PathTo N l p s) :
      PathTo N i (false :: p) s
  | right {i l r : NodeIdx} {w : Word} {p : Bits} {s : Byte} (h : nodeAt N i = .internal w l r) (t : PathTo N r p s) :
      PathTo N i (true :: p) s

/-- Following left and right children that exist from index `i` along `p` arrives at index `j` (10_state.md R34). -/
inductive Reaches (N : Arena) : NodeIdx → Bits → NodeIdx → Prop where
  | here (i : NodeIdx) : Reaches N i [] i
  | left {i l r j : NodeIdx} {w : Word} {p : Bits} (h : nodeAt N i = .internal w l r) (hl : l ≠ NIL)
      (t : Reaches N l p j) : Reaches N i (false :: p) j
  | right {i l r j : NodeIdx} {w : Word} {p : Bits} (h : nodeAt N i = .internal w l r) (hr : r ≠ NIL)
      (t : Reaches N r p j) : Reaches N i (true :: p) j

/-- The number of LEAF entries of the arena. -/
def leaves (N : Arena) : Nat := N.toList.countP fun n => n.kind == 1#2

/-- The well-formed tree: R34 (a) to (c) with the placement and the weights of R31, the root of R33, and the order of
indices of 42_tree_builder.md R156. -/
structure TreeWf (N : Arena) (root : NodeIdx) : Prop where
  /-- no tree: every entry is FREE (R33, R154) -/
  empty : root = NIL → ∀ i, nodeAt N i = .free
  /-- ROOT is never the index of a LEAF (R33) -/
  rootInternal : root ≠ NIL → ∃ w l r, nodeAt N root = .internal w l r
  /-- (a) never a FREE entry -/
  neverFree : root ≠ NIL → ∀ p j, Reaches N root p j → nodeAt N j ≠ .free
  /-- (a) every entry that is not FREE is reached exactly once -/
  once : ∀ j, nodeAt N j ≠ .free → ∃! p, Reaches N root p j
  /-- (b) every INTERNAL entry has a left child -/
  leftChild : ∀ i w l r, nodeAt N i = .internal w l r → l ≠ NIL
  /-- (c) and a right child, except NODE[256] when exactly one symbol is present -/
  rightChild : ∀ i w l, nodeAt N i = .internal w l NIL → i = 256#9 ∧ leaves N = 1
  /-- the leaf of symbol s is at index s and has a weight of at least 1 (R31) -/
  leafPlace : ∀ i s w, nodeAt N i = .leaf s w → i = s.setWidth 9 ∧ w ≠ 0#32
  /-- internal entries are at 256 and above (R31) -/
  internalPlace : ∀ i w l r, nodeAt N i = .internal w l r → 256 ≤ i.toNat
  /-- the weight of an INTERNAL entry is the sum of its existing children's weights (R31) -/
  weights : ∀ i w l r, nodeAt N i = .internal w l r → w = (nodeAt N l).weight + (nodeAt N r).weight
  /-- a child has a smaller index than its parent (R156) -/
  ordered : ∀ i w l r, nodeAt N i = .internal w l r → l.toNat < i.toNat ∧ (r ≠ NIL → r.toNat < i.toNat)

/-- Every internal node has two children: the tree of two or more symbols (R34 (b), (c)). -/
def FullTree (N : Arena) : Prop := ∀ i w l r, nodeAt N i = .internal w l r → r ≠ NIL

/-- The bytes `l` are what a table-walk of `bits` emits (45_bitstream_decoder.md R202 to R204): the bits are cut into segments and
a rest; each segment is a code, the byte emitted is the least symbol with that code, and no shorter non-empty prefix of the
segment is a code; no non-empty prefix of the rest is a code. -/
def IsTableWalk (t : CodeTable) (bits : Bits) (l : List Byte) : Prop :=
  ∃ (segs : List Bits) (rest : Bits), bits = segs.flatten ++ rest ∧
    List.Forall₂ (fun seg b => seg ≠ [] ∧ t.at b = some seg ∧ (∀ a, t.at a = some seg → b.toNat ≤ a.toNat) ∧
      ∀ p a, p <+: seg → p ≠ [] → p ≠ seg → t.at a ≠ some p) segs l ∧
    ∀ p a, p <+: rest → p ≠ [] → t.at a ≠ some p

/-- The bits of the codes of `x`, one after the other (44_bitstream_encoder.md R186). -/
def codesOf (t : CodeTable) (x : List Byte) : Bits := x.flatMap (codeOf t)

/-- A command's primary input is empty (60_exceptions.md R283); `u` is the state it leaves, for the stage of UNPACK. -/
def EmptyInput (i : Instr) (s u : State) : Prop :=
  match i with
  | .sreset => False
  | .count => s.inLen = 0#32
  | .build => ∀ b, s.freq.at b = 0#32
  | .walk => s.root = NIL
  | .emit => s.inLen = 0#32
  | .dect => s.bitsLen = 0#32
  | .decr => s.bitsLen = 0#32
  | .exportContainer => s.bitsLen = 0#32
  | .importContainer => s.blobLen = 0#32
  | .encode => s.inLen = 0#32
  | .unpack => s.blobLen = 0#32 ∨ u.bitsLen = 0#32

/-- The blob is no well-formed container of the instance: the causes of 46_container_codec.md R247. -/
def Malformed (blob : List Byte) : Prop :=
  blob.length < 4 ∨ blob.take 4 ≠ params.magic ∨ blob.length < 8 ∨
    blob.length < 8 + unle ((blob.drop 4).take 4) ∨ tblPar ((blob.drop 8).take (unle ((blob.drop 4).take 4))) = none

/-- Both runs answer a next state and the two are related, or both are refused for the same reason. -/
def SameRun (rel : State → State → Prop) (a b : Result) : Prop :=
  (∃ t u, a = .next t ∧ b = .next u ∧ rel t u) ∨ ∃ r, a = .refused r ∧ b = .refused r

/-- The sum of the counters (41_frequency_counter.md R138). -/
def total (f : FreqTable) : Nat := (f.toList.map BitVec.toNat).sum

/-- The weighted length of a code: the sum over the symbols of FREQ[s] × length of s's code (42_tree_builder.md R158). -/
def weightedLength (f : FreqTable) (len : Byte → Nat) : Nat :=
  ((List.range 256).map fun s => (f.at (BitVec.ofNat 8 s)).toNat * len (BitVec.ofNat 8 s)).sum

/-- The STATUS values that can occur (30_encoding.md R95). -/
def statusValues : List (BitVec 8) := [0x00#8, 0x01#8, 0x02#8, 0x03#8, 0x04#8, 0x08#8, 0x10#8]

/-- The invariant of the instance `P`: what holds whenever the host can observe the state (10_state.md R52), the legal range of
CFG_MAX_INPUT (R26), and the canonical form of the buffers. -/
structure InvAt (P : Params) (s : State) : Prop where
  input : Mem.wf P.inCap s.input = true
  bits : Mem.wf P.bitsCap s.bits = true
  out : Mem.wf P.outCap s.out = true
  blob : Mem.wf P.blobCap s.blob = true
  /-- R26: the legal range of the bound -/
  cfg : s.cfgMaxInput.toNat ≤ P.maxInputLimit.toNat
  /-- R52 (a) -/
  unique : s.unique.toNat = present s.freq
  /-- R52 (b) -/
  counted : total s.freq ≤ 2 ^ 28 - 1
  /-- R52 (c) -/
  tree : TreeWf s.node s.root
  /-- R52 (d) -/
  code : s.code.wf = true
  /-- R52 (e) -/
  status : s.status ∈ statusValues
  /-- R52 (f) -/
  stats : s.ratioX100.toInt = ratioOf s.origBits.toNat s.encBits.toNat
  /-- R39: OUT[0..OUT_LEN) is what the last decode wrote -/
  decoded : ∀ i, i < s.outLen.toNat → (Mem.lookup i s.out).isSome = true

/-- The invariant of the instance that `step` runs. -/
abbrev State.Inv (s : State) : Prop := InvAt params s

/-- The operation issues the command word `c`: Issue(c), or RegWrite(0, v) with c = v[7:0] (40_host_access.md R122, R124). -/
def Issues (op : HostOp) (c : BitVec 8) : Prop := op = .issue c ∨ ∃ v : Word, op = .regWrite 0 v ∧ v.setWidth 8 = c

end Sys2Proof.Machine
end

