-- ==== Sys2Proof/Certificates/Slice0/Obligations.lean ====
section
/-! DEFINITION. The statements for the provers, in the order of the spec's files. -/

open Sys2Proof Sys2Proof.Machine

/-! ### The command word, the step, reset and the host operations (30, 40, 70) -/

/-- 30_encoding.md R91: the opcode map, complete: each command is exactly one byte value. -/
def Obligations.OpcodeMapIsComplete : Prop :=
  ∀ (w : BitVec 8) (i : Instr), decode w = .ok i ↔
    (w.toNat, i) ∈ [(0x01, Instr.sreset), (0x02, .count), (0x03, .build), (0x04, .walk), (0x05, .emit), (0x06, .dect),
      (0x07, .decr), (0x08, .exportContainer), (0x09, .importContainer), (0x0A, .encode), (0x0B, .unpack)]

/-- 60_exceptions.md R286, 30_encoding.md R93, 40_host_access.md R122: a write to CMD of a word outside 0x01..0x0B, by Issue or by
RegWrite(0, v), leaves STATUS = 0x10 and every other state element of the spec as it was; the decoder rejects the word by name.
What becomes of `pending`, `response` and `draws` is the model's own (log 5, 7, 13). -/
def Obligations.ReservedWordSetsIllegalCmdOnly : Prop :=
  ∀ (w : BitVec 8), (w.toNat = 0 ∨ 11 < w.toNat) →
    (decode w = if w.toNat < 16 then .error (.reservedOp (w.extractLsb' 0 4)) else .error (.nonZeroField (w.extractLsb' 4 4))) ∧
    ∀ (s : State) (op : HostOp) (rest : List HostOp), s.pending = op :: rest →
      Issues op w →
      step s = .next { s with status := 0x10#8, pending := rest, response := none, draws := s.draws + 1 }

/-- 40_host_access.md R124: a step whose host operation issues a word that decodes to `i` is `exec i` of the state with that
operation taken; the command word of `i`, placed by `withFetchWord`, is what the very next step runs; and with no operation
waiting nothing changes (the model's choice, log 5). The fields `pending`, `response` and `draws` are the model's own (log 5, 6,
7, 13). -/
def Obligations.StepRunsTheIssuedCommand : Prop :=
  (∀ (s : State) (op : HostOp) (rest : List HostOp) (c : BitVec 8) (i : Instr), s.pending = op :: rest →
    Issues op c → decode c = .ok i →
    step s = exec i { s with pending := rest, response := none, draws := s.draws + 1 }) ∧
  (∀ (s : State) (i : Instr), decodeTableWord 8 (encode i).toNat = some i ∧
    step (s.withFetchWord 8 (encode i).toNat) = exec i { s with response := none, draws := s.draws + 1 }) ∧
  ∀ s : State, s.pending = [] → step s = .next s

/-- 10_state.md R51, 70_reset_and_hazards.md R310: the reset input, whatever the state, gives every register, FREQ, NODE and
CODE of any instance its reset value, CFG_MAX_INPUT that instance's MAX_INPUT_RESET, and leaves nothing written in a buffer; on
the instance that `step` runs it gives the reset state. That instance's MAX_INPUT_RESET is the model's choice (log 1);
the reset is an event of `pending`, and `pending` and `draws` go on (log 5, 7, 16). -/
def Obligations.HardwareResetValues : Prop :=
  (∀ (P : Params) (s : State) (rest : List HostOp), s.pending = .hwReset :: rest → ∃ t, stepAt P s = .next t ∧
    t.status = 0#8 ∧ t.cfgMaxInput = P.maxInputReset ∧ t.inLen = 0#32 ∧ t.bitsLen = 0#32 ∧ t.outLen = 0#32 ∧
    t.blobLen = 0#32 ∧ t.root = 511#9 ∧ t.unique = 0#9 ∧ t.origBits = 0#32 ∧ t.encBits = 0#32 ∧ t.ratioX100 = 0#32 ∧
    t.errSym = 0#8 ∧ t.errPos = 0#32 ∧ (∀ b, t.freq.at b = 0#32) ∧ (∀ i, nodeAt t.node i = .free) ∧
    (∀ b, t.code.at b = none) ∧
    (∀ i, Mem.lookup i t.input = none ∧ Mem.lookup i t.bits = none ∧ Mem.lookup i t.out = none ∧ Mem.lookup i t.blob = none) ∧
    t.pending = rest ∧ { t with pending := [], draws := 0 } = resetAt P) ∧
  (∀ (s : State) (rest : List HostOp), s.pending = .hwReset :: rest →
    step s = .next { State.reset with pending := rest, draws := s.draws + 1 }) ∧
  State.reset = resetAt params

/-- 40_host_access.md R121: RegRead(n) returns the register zero-extended, 0 for CMD and for n ≥ 14, and changes no state
element of the spec. That the result is held in `response` (log 13), and `pending` and `draws` (log 5, 7), are the model's. -/
def Obligations.RegReadReturnsTheRegister : Prop :=
  ∀ (s : State) (n : Nat) (rest : List HostOp), s.pending = .regRead n :: rest →
    step s = .next { s with
      pending := rest
      draws := s.draws + 1
      response := some (.word32 ([0#32, s.status.setWidth 32, s.cfgMaxInput, s.inLen, s.bitsLen, s.outLen, s.blobLen,
        s.root.setWidth 32, s.unique.setWidth 32, s.origBits, s.encBits, s.ratioX100, s.errSym.setWidth 32,
        s.errPos].getD n 0#32)) }

/-- 40_host_access.md R122: RegWrite(n, v): n = 0 issues v[7:0]; 2 stores min(v, MAX_INPUT_LIMIT), for every value of that
parameter; 3, 4, 6 store v; any other number has no effect. `regWrite` is the helper for n ≠ 0 (at 0 it does nothing): the
step at n = 0 is the issue. What becomes of `pending`, `response` and `draws` is the model's own (log 5, 7, 13). -/
def Obligations.RegWriteStoresOrIsIgnored : Prop :=
  (∀ (P : Params) (s : State) (v : Word), ∃ c : Word, c.toNat = min v.toNat P.maxInputLimit.toNat ∧
    regWrite P 2 v s = { s with cfgMaxInput := c } ∧ regWrite P 3 v s = { s with inLen := v } ∧
    regWrite P 4 v s = { s with bitsLen := v } ∧ regWrite P 6 v s = { s with blobLen := v } ∧
    ∀ n, n ≠ 2 → n ≠ 3 → n ≠ 4 → n ≠ 6 → regWrite P n v s = s) ∧
  ∀ (s : State) (n : Nat) (v : Word) (rest : List HostOp), s.pending = .regWrite n v :: rest →
    (n = 0 → step s = issue (v.setWidth 8) { s with pending := rest, response := none, draws := s.draws + 1 }) ∧
    (n ≠ 0 → step s = .next (regWrite params n v { s with pending := rest, response := none, draws := s.draws + 1 }))

/-- 20_memory.md R67, R70: an access outside a space reads 0 and writes nothing; a write to a read-only space (FREQ, NODE,
OUT) is ignored; a read changes no state element but the model's `response`. That a zero is returned as an element of the
space, and that an element of another type is refused, are the model's choices (log 12, 13). -/
def Obligations.AccessOutOfRangeOrReadOnlyHasNoEffect : Prop :=
  ∀ (s : State) (rest : List HostOp) (sp i : Nat),
    (∀ e, s.pending = .bufWrite sp i e :: rest → (HostOp.bufWrite sp i e).wf = true →
      (sp = 0 ∨ 7 < sp ∨ sp = 2 ∨ sp = 3 ∨ sp = 6 ∨ (sp = 1 ∧ params.inCap ≤ i) ∨ (sp = 4 ∧ 256 ≤ i) ∨
        (sp = 5 ∧ ceil8 params.bitsCap ≤ i) ∨ (sp = 7 ∧ params.blobCap ≤ i)) →
      step s = .next { s with pending := rest, response := none, draws := s.draws + 1 }) ∧
    (s.pending = .bufRead sp i :: rest → ∃ e, step s = .next
        { s with pending := rest, response := some e, draws := s.draws + 1 } ∧
      ((sp = 0 ∨ 7 < sp) → e = .word32 0#32) ∧
      ((sp = 1 ∧ params.inCap ≤ i) ∨ (sp = 5 ∧ ceil8 params.bitsCap ≤ i) ∨ (sp = 6 ∧ params.outCap ≤ i) ∨
        (sp = 7 ∧ params.blobCap ≤ i) → e = .byte 0#8) ∧
      (sp = 2 ∧ 256 ≤ i → e = .word32 0#32) ∧ (sp = 3 ∧ 511 ≤ i → e = .word64 0#64) ∧
      (sp = 4 ∧ 256 ≤ i → e = .record (List.replicate 33 0#8)))

/-- 10_state.md R36: a written 33-byte record E makes the entry absent when E[0] = 0 and else the first E[0] bits of the rest,
and reads back with the bits beyond those as 0; other entries stay. The record an entry reads as is its length (0 for absent),
its packed code and zeros, and writing it sets exactly that entry. -/
def Obligations.CodeRecordReadsBackNormalised : Prop :=
  (∀ (s : State) (b : Byte) (r : List Byte), r.length = 33 →
    ∃ t r', bufWrite params 4 b.toNat (.record r) s = t ∧ bufRead params 4 b.toNat t = .record r' ∧
      t = { s with code := t.code } ∧ (∀ c, c ≠ b → t.code.at c = s.code.at c) ∧
      (r[0]? = some 0#8 → t.code.at b = none) ∧
      (∀ l, r[0]? = some l → l ≠ 0#8 → t.code.at b = some ((unpack (r.drop 1)).take l.toNat)) ∧
      r'.length = 33 ∧ r'[0]? = r[0]? ∧
      ∀ j, j < 256 → (unpack (r'.drop 1))[j]? =
        some (decide (j < (r.getD 0 0#8).toNat) && (unpack (r.drop 1)).getD j false)) ∧
  (∀ (s : State) (b : Byte), bufRead params 4 b.toNat s = .record (codeRecord (s.code.at b))) ∧
  ∀ e : Option Code, Code.entryWf e = true → (codeRecord e).length = 33 ∧ ofRecord (codeRecord e) = e ∧
    (e = none → codeRecord e = List.replicate 33 0#8) ∧
    ∀ c, e = some c → (codeRecord e)[0]? = some (BitVec.ofNat 8 c.length) ∧
      (codeRecord e).drop 1 = pack c ++ List.replicate (32 - ceil8 c.length) 0#8

/-- 10_state.md R32: element i of space NODE is the packed word: weight in 31:0, left in 40:32, right in 49:41, symbol in
57:50, kind in 59:58 (0 FREE, 1 LEAF, 2 INTERNAL, never 3), 0 in 63:60; the space has 511 elements and is read-only.
20_memory.md R67: beyond them it reads 0; that this zero is typed as a node word is the model's choice (log 13). -/
def Obligations.NodeWordFields : Prop :=
  ∀ (s : State) (i : Nat), (i < 511 → ∃ w : BitVec 64, bufRead params 3 i s = .word64 w ∧
      w.extractLsb' 0 32 = (nodeAt s.node (BitVec.ofNat 9 i)).weight ∧
      w.extractLsb' 32 9 = (nodeAt s.node (BitVec.ofNat 9 i)).left ∧
      w.extractLsb' 41 9 = (nodeAt s.node (BitVec.ofNat 9 i)).right ∧
      w.extractLsb' 50 8 = (nodeAt s.node (BitVec.ofNat 9 i)).symbol ∧ w.extractLsb' 60 4 = 0#4 ∧
      w.extractLsb' 58 2 = (match nodeAt s.node (BitVec.ofNat 9 i) with
        | .free => 0#2
        | .leaf _ _ => 1#2
        | .internal _ _ _ => 2#2)) ∧
    (511 ≤ i → bufRead params 3 i s = .word64 0#64) ∧ ∀ e, bufWrite params 3 i e s = s

/-- 40_host_access.md R123, 10_state.md R37 to R40: a step with a BufRead waiting returns what `bufRead` gives, and one with a
well-typed BufWrite waiting performs `bufWrite` (`pending`, `response`, `draws`: log 5, 7, 13). In range, FREQ[i] is read; OUT[i]
below OUT_LEN, BLOB[i] below BLOB_LEN and byte i of pack(BITS[0..BITS_LEN)) below ceil8(BITS_LEN) are read; IN[i] is the byte
written there, whatever IN_LEN is. A byte written to element j of BITS sets the eight bits of that byte that lie below BITS_CAP
and no other bit; a byte written to IN or BLOB is stored; no other element changes and no length register does. -/
def Obligations.HostBufferWritesAndReads : Prop :=
  (∀ (s s' : State) (rest : List HostOp) (sp i : Nat),
    s' = { s with pending := rest, response := none, draws := s.draws + 1 } →
    (s.pending = .bufRead sp i :: rest → step s = .next { s' with response := some (bufRead params sp i s') }) ∧
    ∀ e, s.pending = .bufWrite sp i e :: rest → (HostOp.bufWrite sp i e).wf = true →
      step s = .next (bufWrite params sp i e s')) ∧
  ∀ (s : State) (i : Nat) (v : Byte),
    (∀ b : Byte, bufRead params 2 b.toNat s = .word32 (s.freq.at b)) ∧
    (i < s.outLen.toNat → i < params.outCap → bufRead params 6 i s = .byte (s.outBytes.getD i 0#8)) ∧
    (i < s.blobLen.toNat → i < params.blobCap → bufRead params 7 i s = .byte (s.blobBytes.getD i 0#8)) ∧
    (i < ceil8 s.bitsLen.toNat → i < ceil8 params.bitsCap →
      bufRead params 5 i s = .byte ((pack s.payload).getD i 0#8)) ∧
    (i < params.inCap → Mem.lookup i s.input = some v → bufRead params 1 i s = .byte v) ∧
    (Mem.wf params.bitsCap s.bits = true → i < ceil8 params.bitsCap → ∃ t, bufWrite params 5 i (.byte v) s = t ∧
      t = { s with bits := t.bits } ∧ ∀ n, Mem.lookup n t.bits =
        if 8 * i ≤ n ∧ n < 8 * i + 8 ∧ n < params.bitsCap then some (v.getMsbD (n - 8 * i)) else Mem.lookup n s.bits) ∧
    (Mem.wf params.inCap s.input = true → i < params.inCap → ∃ t, bufWrite params 1 i (.byte v) s = t ∧
      t = { s with input := t.input } ∧ Mem.lookup i t.input = some v ∧
      ∀ n, n ≠ i → Mem.lookup n t.input = Mem.lookup n s.input) ∧
    (Mem.wf params.blobCap s.blob = true → i < params.blobCap → ∃ t, bufWrite params 7 i (.byte v) s = t ∧
      t = { s with blob := t.blob } ∧ Mem.lookup i t.blob = some v ∧
      ∀ n, n ≠ i → Mem.lookup n t.blob = Mem.lookup n s.blob)

/-! ### U1, the frequency counter (41) -/

/-- 41_frequency_counter.md R137, R135: COUNT completes whenever IN_LEN ≤ CFG_MAX_INPUT: every counter is the number of
occurrences of its byte in IN[0..IN_LEN), UNIQUE the number of distinct bytes, EMPTY set exactly for an empty input, and
nothing else changes; else CAPACITY alone is set. -/
def Obligations.CountCountsOccurrences : Prop :=
  ∀ s : State,
    (s.inLen.toNat ≤ s.cfgMaxInput.toNat → ∃ t, exec .count s = .next t ∧
      (∀ b : Byte, (t.freq.at b).toNat = s.inputBytes.count b) ∧
      t.unique.toNat = s.inputBytes.dedup.length ∧
      t.status = (if s.inLen = 0#32 then 0x01#8 else 0x00#8) ∧
      t = { s with status := t.status, freq := t.freq, unique := t.unique }) ∧
    (s.cfgMaxInput.toNat < s.inLen.toNat → exec .count s = .next { s with status := 0x08#8 })

/-- 41_frequency_counter.md R138: a COUNT under a legal bound makes IN_LEN ≤ 2^28 − 1 increments: the counters sum to IN_LEN
and none overflows. -/
def Obligations.NoCounterOverflows : Prop :=
  ∀ s : State, s.cfgMaxInput.toNat ≤ params.maxInputLimit.toNat → s.inLen.toNat ≤ s.cfgMaxInput.toNat →
    ∃ t, exec .count s = .next t ∧ total t.freq = s.inLen.toNat ∧ total t.freq ≤ 2 ^ 28 - 1 ∧
      ∀ b, (t.freq.at b).toNat ≤ 2 ^ 28 - 1

/-! ### U2, the tree builder (42) -/

/-- 42_tree_builder.md R153: popmin removes and returns a member of the live set, keeps the others, and what it returns has the
least key: smaller weight first, and among equal weights the smaller index first. -/
def Obligations.PopMinTakesTheLeastKey : Prop :=
  ∀ live : List Key, (popMin live = none ↔ live = []) ∧
    ∀ m rest, popMin live = some (m, rest) → (m :: rest).Perm live ∧
      ∀ k ∈ live, m.weight.toNat < k.weight.toNat ∨ (m.weight = k.weight ∧ m.index.toNat ≤ k.index.toNat)

/-- 42_tree_builder.md R154, R155: BUILD on no present symbol gives the empty tree and EMPTY (and then WALK gives the empty
table, DECR no output); on exactly one it gives the leaf, the synthetic root NODE[256] with the leaf on the left and NIL on
the right, and WALK gives the code "0". -/
def Obligations.BuildOfAtMostOneSymbol : Prop :=
  (∀ s : State, (∀ b, s.freq.at b = 0#32) → ∃ t, exec .build s = .next t ∧ t.root = NIL ∧ (∀ i, nodeAt t.node i = .free) ∧
    t.status = 0x01#8 ∧ t = { s with status := t.status, node := t.node, root := t.root } ∧
    (∃ u, exec .walk t = .next u ∧ ∀ b, u.code.at b = none) ∧ ∀ bits, decr t.node t.root bits = []) ∧
  ∀ (s : State) (b : Byte), s.freq.at b ≠ 0#32 → (∀ c, c ≠ b → s.freq.at c = 0#32) → ∃ t, exec .build s = .next t ∧
    t.root = 256#9 ∧ nodeAt t.node (b.setWidth 9) = .leaf b (s.freq.at b) ∧
    nodeAt t.node 256#9 = .internal (s.freq.at b) (b.setWidth 9) NIL ∧
    (∀ i, i ≠ b.setWidth 9 → i ≠ 256#9 → nodeAt t.node i = .free) ∧ t.status = 0x00#8 ∧
    t = { s with status := t.status, node := t.node, root := t.root } ∧
    ∃ u, exec .walk t = .next u ∧ u.code.at b = some [false] ∧ ∀ c, c ≠ b → u.code.at c = none

/-- 42_tree_builder.md R156: with k ≥ 2 present symbols the merge loop runs exactly k − 1 times and creates NODE[256] to
NODE[256 + k − 2] in that order; ROOT = 256 + k − 2; every internal node has two existing children of smaller index and its
weight is their sum; ROOT's weight is the sum of all counters. -/
def Obligations.BuildOfManySymbols : Prop :=
  ∀ s : State, 2 ≤ present s.freq → total s.freq < 2 ^ 32 →
    (∀ n, n ≤ present s.freq - 1 → (mergeLoop n (initLeaves s.freq)).live.length = present s.freq - n ∧
      (mergeLoop n (initLeaves s.freq)).next = 256 + n) ∧
    ∃ t, exec .build s = .next t ∧ t.root.toNat = 256 + present s.freq - 2 ∧ t.status = 0x00#8 ∧
      (∀ i : NodeIdx, 256 ≤ i.toNat → ((∃ w l r, nodeAt t.node i = .internal w l r) ↔ i.toNat ≤ 256 + present s.freq - 2)) ∧
      (∀ i w l r, nodeAt t.node i = .internal w l r → nodeAt t.node l ≠ .free ∧ nodeAt t.node r ≠ .free ∧
        l.toNat < i.toNat ∧ r.toNat < i.toNat ∧
        w.toNat = (nodeAt t.node l).weight.toNat + (nodeAt t.node r).weight.toNat) ∧
      (nodeAt t.node t.root).weight.toNat = total s.freq ∧
      t = { s with status := t.status, node := t.node, root := t.root }

/-- 10_state.md R34: the tree is well formed after every BUILD and after reset, and the LEAF entries are exactly the symbols
with FREQ[s] ≥ 1, each with its count as weight. -/
def Obligations.BuildMakesAWellFormedTree : Prop :=
  TreeWf State.reset.node State.reset.root ∧
  ∀ s : State, ∃ t, exec .build s = .next t ∧ TreeWf t.node t.root ∧
    (∀ b w, nodeAt t.node (b.setWidth 9) = .leaf b w ↔ (s.freq.at b ≠ 0#32 ∧ w = s.freq.at b)) ∧
    t = { s with status := t.status, node := t.node, root := t.root }

/-- 42_tree_builder.md R158 (b): the weights of NODE[256], NODE[257], ... are non-decreasing in index. -/
def Obligations.InternalWeightsAreNondecreasing : Prop :=
  ∀ s t : State, total s.freq < 2 ^ 32 → exec .build s = .next t →
    ∀ i j wi li ri wj lj rj, i.toNat ≤ j.toNat → nodeAt t.node i = .internal wi li ri →
      nodeAt t.node j = .internal wj lj rj → wi.toNat ≤ wj.toNat

/-- 42_tree_builder.md R158 (a), 43_code_table_walker.md R175: the table WALK writes after BUILD has the least weighted length
of all codes that give the present symbols non-empty, prefix-free bit strings. -/
def Obligations.HuffmanCodeIsOptimal : Prop :=
  ∀ s t u : State, total s.freq < 2 ^ 32 → exec .build s = .next t → exec .walk t = .next u →
    ∀ c : Byte → Bits, (∀ a, s.freq.at a ≠ 0#32 → c a ≠ []) →
      (∀ a b, s.freq.at a ≠ 0#32 → s.freq.at b ≠ 0#32 → a ≠ b → ¬ c a <+: c b) →
      weightedLength s.freq (fun a => (codeOf u.code a).length) ≤ weightedLength s.freq (fun a => (c a).length)

/-- 42_tree_builder.md R159: INIT takes one step per symbol and ends with the leaves, MERGE takes max(k − 1, 0) steps, one for
k = 1, DONE one, which writes ROOT and not before; then the arena and the root are those BUILD writes and the live set is
empty. -/
def Obligations.BuildPerItemStepsAgree : Prop :=
  ∀ f : FreqTable, let merges := mergeSteps (present f)
    (∀ n, ((BuildFsm.step f)^[n] BuildFsm.start).phase =
      if n < 256 then .init n else if n < 256 + merges then .merge else if n = 256 + merges then .done else .ended) ∧
    ((BuildFsm.step f)^[256] BuildFsm.start).build = initLeaves f ∧
    (∀ n, n ≤ 256 + merges → ((BuildFsm.step f)^[n] BuildFsm.start).root = NIL) ∧
    let m := (BuildFsm.step f)^[256 + merges + 1] BuildFsm.start
    m.build.node = (buildTree f).1 ∧ m.root = (buildTree f).2 ∧ m.build.live = []

/-! ### U3, the code-table walker (43) -/

/-- 43_code_table_walker.md R172, R173: on a well-formed tree WALK completes: CODE[s] is the path from ROOT to the leaf of s,
root edge first, absent for a symbol without a leaf; every length is 1 to 255; EMPTY exactly for the empty tree; NODE, ROOT
and all else are not changed. -/
def Obligations.WalkRecordsThePathToEachLeaf : Prop :=
  ∀ s : State, TreeWf s.node s.root → ∃ t, exec .walk s = .next t ∧
    (∀ b c, t.code.at b = some c ↔ PathTo s.node s.root c b) ∧
    (∀ b, (t.code.at b).isSome = true ↔ ∃ i w, nodeAt s.node i = .leaf b w) ∧
    (∀ b c, t.code.at b = some c → 1 ≤ c.length ∧ c.length ≤ 255) ∧
    t.status = (if s.root = NIL then 0x01#8 else 0x00#8) ∧ t = { s with status := t.status, code := t.code }

/-- 43_code_table_walker.md R176: the table of a well-formed tree is prefix-free; with two or more symbols it is complete
(every infinite bit sequence has exactly one code as a prefix); with one it is {"0"}, and a sequence that starts with 1 has no
code as a prefix. -/
def Obligations.WalkedCodeIsPrefixFreeAndComplete : Prop :=
  ∀ (N : Arena) (root : NodeIdx), TreeWf N root → PrefixFree (walkTable N root) ∧
    (root ≠ NIL → FullTree N → ∀ f : Nat → Bool, ∃! b : Byte, ∃ w : Code, (walkTable N root).at b = some w ∧
      ∀ i : Nat, i < w.length → w[i]? = some (f i)) ∧
    (¬ FullTree N → ∃ b, (walkTable N root).at b = some [false] ∧ ∀ a, a ≠ b → (walkTable N root).at a = none)

/-- 43_code_table_walker.md R174: the stack walk ends within 511 steps with the table WALK writes; the stack never holds more
than 256 pairs and no path is longer than 255 bits. -/
def Obligations.WalkPerItemStepsAgree : Prop :=
  ∀ (N : Arena) (root : NodeIdx), TreeWf N root →
    (let m := (WalkFsm.step N)^[511] (WalkFsm.start root)
     m.stack = [] ∧ m.code = walkTable N root) ∧
    ∀ n, let m := (WalkFsm.step N)^[n] (WalkFsm.start root)
      m.stack.length ≤ 256 ∧ ∀ q ∈ m.stack, q.2.length ≤ 255

/-! ### U4, the encoder (44) -/

/-- 44_bitstream_encoder.md R187, R186, R190, R191: EMIT completes when the bound, the table and the buffer allow: BITS holds
the concatenation of the codes in input order, BITS_LEN its exact length, the statistics follow, EMPTY exactly for an empty
input. Bits at and above the new length keep what they held unless BITS_LEN shrank (log 9); nothing else changes. -/
def Obligations.EmitConcatenatesTheCodes : Prop :=
  ∀ s : State, s.inLen.toNat ≤ s.cfgMaxInput.toNat → Covers s.code s.inputBytes →
    (codesOf s.code s.inputBytes).length ≤ params.bitsCap → ∃ t, exec .emit s = .next t ∧
      Holds t.bits (codesOf s.code s.inputBytes) ∧ t.bitsLen.toNat = (codesOf s.code s.inputBytes).length ∧
      t.bitsLen.toNat = (s.inputBytes.map fun b => (codeOf s.code b).length).sum ∧
      t.origBits = BitVec.ofNat 32 (8 * s.inLen.toNat) ∧ t.encBits = t.bitsLen ∧
      t.ratioX100 = (if s.inLen = 0#32 then 0#32 else BitVec.ofInt 32
        ⌊(10000 * (8 * (s.inLen.toNat : ℚ) - (t.bitsLen.toNat : ℚ))) / (8 * (s.inLen.toNat : ℚ))⌋) ∧
      t.status = (if s.inLen = 0#32 then 0x01#8 else 0x00#8) ∧
      (∀ i, t.bitsLen.toNat ≤ i → s.bitsLen.toNat ≤ t.bitsLen.toNat → Mem.lookup i t.bits = Mem.lookup i s.bits) ∧
      t = { s with status := t.status, bits := t.bits, bitsLen := t.bitsLen, origBits := t.origBits, encBits := t.encBits,
                   ratioX100 := t.ratioX100 }

/-- 44_bitstream_encoder.md R189: at the first symbol without a code EMIT sets UNKNOWN_SYMBOL, records the symbol and its
index, sets BITS_LEN to 0, keeps the statistics, and ends. -/
def Obligations.EmitStopsAtTheFirstUnknownSymbol : Prop :=
  ∀ (s : State) (pre : List Byte) (b : Byte) (post : List Byte), s.inLen.toNat ≤ s.cfgMaxInput.toNat →
    s.inputBytes = pre ++ b :: post → Covers s.code pre → s.code.at b = none →
    (codesOf s.code pre).length ≤ params.bitsCap → ∃ t, exec .emit s = .next t ∧
      t.status = 0x04#8 ∧ t.errSym = b ∧ t.errPos.toNat = pre.length ∧ t.bitsLen = 0#32 ∧
      t = { s with status := t.status, bits := t.bits, bitsLen := t.bitsLen, errSym := t.errSym, errPos := t.errPos }

/-- 20_memory.md R69: an EMIT that would write a code beyond BITS_CAP, an EXPORT that would write a blob beyond BLOB_CAP, and a
decode that would write more than OUT_CAP bytes are refused, for every value of these parameters. That this holds of an EMIT
that meets an unmapped symbol later in its input is the model's reading (log 11). -/
def Obligations.OutputBeyondItsBufferIsRefused : Prop :=
  (∀ s : State, exec .emit s = command (emitBody params) s ∧ exec .exportContainer s = command (exportBody params) s ∧
    exec .dect s = command (dectBody params) s ∧ exec .decr s = command (decrBody params) s) ∧
  ∀ (P : Params) (s : State),
    (∀ (pre : List Byte) (b : Byte) (post : List Byte), s.inLen.toNat ≤ s.cfgMaxInput.toNat →
      s.inputBytes = pre ++ b :: post → Covers s.code (pre ++ [b]) →
      P.bitsCap < (codesOf s.code (pre ++ [b])).length → command (emitBody P) s = .refused (.bufferOverflow .bits)) ∧
    (ceil8 s.bitsLen.toNat ≤ s.cfgMaxInput.toNat →
      P.blobCap < P.magic.length + 4 + (P.tbl.ser s.code).length + ceil8 s.bitsLen.toNat →
      command (exportBody P) s = .refused (.bufferOverflow .blob)) ∧
    (ceil8 s.bitsLen.toNat ≤ s.cfgMaxInput.toNat → P.outCap < (dect s.code s.payload).length →
      command (dectBody P) s = .refused (.bufferOverflow .out)) ∧
    (ceil8 s.bitsLen.toNat ≤ s.cfgMaxInput.toNat → P.outCap < (decr s.node s.root s.payload).length →
      command (decrBody P) s = .refused (.bufferOverflow .out))

/-- 44_bitstream_encoder.md R192, 10_state.md R43: with codes of 1 to 255 bits, a successful EMIT of a non-empty input leaves
RATIO_X100 between −308750 and 8750. -/
def Obligations.RatioStaysInRange : Prop :=
  ∀ s t : State, s.code.wf = true → s.cfgMaxInput.toNat ≤ params.maxInputLimit.toNat → exec .emit s = .next t →
    t.status = 0x00#8 → -308750 ≤ t.ratioX100.toInt ∧ t.ratioX100.toInt ≤ 8750

/-- 41_frequency_counter.md R139, 44_bitstream_encoder.md R188: the per-item steps of COUNT and of EMIT compute the commands'
functions; and looking up the input in two chunks and merging the second's bits behind the first's gives the sequential
concatenation. -/
def Obligations.CounterAndEncoderPerItemStepsAgree : Prop :=
  (∀ x : List Byte, (CountFsm.step x)^[x.length] CountFsm.start = ⟨x.length, count x⟩) ∧
  (∀ (t : CodeTable) (x : List Byte), let m := (EmitFsm.step t x)^[x.length] EmitFsm.start
    m.bits = (emit t x).bits ∧ m.unknown = (emit t x).unknown ∧ m.p = m.bits.length) ∧
  ∀ (t : CodeTable) (x y : List Byte), Covers t x →
    (emit t x).bits = codesOf t x ∧ (emit t x).unknown = none ∧
    (emit t (x ++ y)).bits = codesOf t x ++ (emit t y).bits ∧
    (emit t (x ++ y)).unknown = (emit t y).unknown.map fun u => (u.1, x.length + u.2)

/-! ### U5, the decoder (45) -/

/-- 45_bitstream_decoder.md R202, R203, R204: DECT completes when the bound and the buffer allow: OUT holds the table-walk of
BITS[0..BITS_LEN) with CODE, which is unique; EMPTY exactly for BITS_LEN = 0. Bytes at and above the new length keep what they
held unless OUT_LEN shrank (the model's reading, log 9); nothing else changes. -/
def Obligations.DectDecodesByTableWalk : Prop :=
  ∀ s : State, ceil8 s.bitsLen.toNat ≤ s.cfgMaxInput.toNat → s.bitsLen.toNat ≤ params.outCap →
    ∃ t l, exec .dect s = .next t ∧ IsTableWalk s.code s.payload l ∧ (∀ l', IsTableWalk s.code s.payload l' → l' = l) ∧
      Holds t.out l ∧ t.outLen.toNat = l.length ∧ t.status = (if s.bitsLen = 0#32 then 0x01#8 else 0x00#8) ∧
      (∀ i, l.length ≤ i → s.outLen.toNat ≤ l.length → Mem.lookup i t.out = Mem.lookup i s.out) ∧
      t = { s with status := t.status, out := t.out, outLen := t.outLen }

/-- 45_bitstream_decoder.md R210, R211, R213: DECR completes when the bound and the buffer allow: OUT holds the bytes that the
tree-walk FSM, started at ROOT, emits over BITS[0..BITS_LEN), none for the empty tree; EMPTY exactly for BITS_LEN = 0;
bytes of
OUT at and above the new length keep what they held unless OUT_LEN shrank (the model's reading, log 9); nothing else changes. -/
def Obligations.DecrDecodesByTreeWalk : Prop :=
  ∀ s : State, ceil8 s.bitsLen.toNat ≤ s.cfgMaxInput.toNat → s.bitsLen.toNat ≤ params.outCap →
    ∃ t l, exec .decr s = .next t ∧
      l = (if s.root = NIL then [] else (s.payload.foldl (TreeFsm.step s.node s.root) (TreeFsm.start s.root)).out) ∧
      Holds t.out l ∧ t.outLen.toNat = l.length ∧ t.status = (if s.bitsLen = 0#32 then 0x01#8 else 0x00#8) ∧
      (∀ i, l.length ≤ i → s.outLen.toNat ≤ l.length → Mem.lookup i t.out = Mem.lookup i s.out) ∧
      t = { s with status := t.status, out := t.out, outLen := t.outLen }

/-- 45_bitstream_decoder.md R205, R206: once the accumulator is neither a code nor a proper prefix of a code, all remaining
bits are absorbed (DECT has no resynchronisation); so an accumulator of at most 255 bits with the mark "never matches again"
gives the same output as the unbounded buffer. -/
def Obligations.BoundedAccumulatorIsEnough : Prop :=
  (∀ (t : CodeTable) (pre bits : Bits), pre ≠ [] → (∀ p a, p <+: pre → p ≠ [] → t.at a ≠ some p) →
    (∀ a c, t.at a = some c → ¬ pre <+: c) → dect t (pre ++ bits) = []) ∧
  ∀ (t : CodeTable), t.wf = true → ∀ b : Bits,
    (b.foldl (TableFsm.step t) TableFsm.start).out = dect t b ∧
    (b.foldl (TableFsm.step t) TableFsm.start).buf.length ≤ 255

/-- 45_bitstream_decoder.md R221: each emitted byte consumes at least one bit, so under a legal bound neither decode command
ever outgrows OUT. -/
def Obligations.DecodeNeverOutgrowsOut : Prop :=
  (∀ (t : CodeTable) (b : Bits), (dect t b).length ≤ b.length) ∧
  (∀ (N : Arena) (root : NodeIdx) (b : Bits), (decr N root b).length ≤ b.length) ∧
  ∀ s : State, s.cfgMaxInput.toNat ≤ params.maxInputLimit.toNat →
    (∃ t, exec .dect s = .next t ∧ (t.status ≠ 0x08#8 → t.outLen.toNat ≤ s.bitsLen.toNat)) ∧
    ∃ t, exec .decr s = .next t ∧ (t.status ≠ 0x08#8 → t.outLen.toNat ≤ s.bitsLen.toNat)

/-- 45_bitstream_decoder.md R215, R217, R218: for a prefix-free table with an entry for every byte of x, decoding the encoding
of x followed by any tail gives x followed by the decoding of the tail; one extra 1 is harmless exactly when "1" is not a
code. -/
def Obligations.TableWalkInvertsEmit : Prop :=
  ∀ (t : CodeTable) (x : List Byte), PrefixFree t → t.wf = true → Covers t x →
    dect t (emit t x).bits = x ∧ (∀ tail, dect t ((emit t x).bits ++ tail) = x ++ dect t tail) ∧
    (dect t ((emit t x).bits ++ [true]) = x ↔ ∀ a, t.at a ≠ some [true])

/-- 45_bitstream_decoder.md R216, R217: with the tree and the table WALK makes from it, the tree-walk inverts the encoding of
any sequence of leaf symbols, and what follows it is decoded on its own. -/
def Obligations.TreeWalkInvertsEmit : Prop :=
  ∀ (N : Arena) (root : NodeIdx) (x : List Byte), TreeWf N root → (∀ b ∈ x, ∃ i w, nodeAt N i = .leaf b w) →
    decr N root (emit (walkTable N root) x).bits = x ∧
    ∀ tail, decr N root ((emit (walkTable N root) x).bits ++ tail) = x ++ decr N root tail

/-- 45_bitstream_decoder.md R220: agreement of the two strategies: none of them outputs anything on the empty tree; they agree
on every stream when two or more symbols are present; with one symbol z, DECR gives z for each 0, DECT z for each 0 before the
first 1, and they agree exactly when no 0 follows a 1. -/
def Obligations.DecodeStrategiesAgree : Prop :=
  ∀ (N : Arena) (root : NodeIdx), TreeWf N root →
    (root = NIL → ∀ b, dect (walkTable N root) b = [] ∧ decr N root b = []) ∧
    (root ≠ NIL → FullTree N → ∀ b, dect (walkTable N root) b = decr N root b) ∧
    (¬ FullTree N → ∃ z, ∀ b : Bits, decr N root b = List.replicate (b.count false) z ∧
      dect (walkTable N root) b = List.replicate (b.takeWhile (· == false)).length z ∧
      (dect (walkTable N root) b = decr N root b ↔ ∀ i j : Nat, i < j → b[i]? = some true → b[j]? ≠ some false))

/-- 45_bitstream_decoder.md R219: in every non-empty table WALK writes exactly one symbol z has an all-zero code, of length d,
and m pad zeros decode to floor(m / d) extra copies of z for both decoders, so they are harmless exactly when m < d. -/
def Obligations.PadBitsDecodeToTheAllZeroSymbol : Prop :=
  ∀ (N : Arena) (root : NodeIdx), TreeWf N root → root ≠ NIL → ∃ z d, 1 ≤ d ∧
    (walkTable N root).at z = some (List.replicate d false) ∧
    (∀ a e, (walkTable N root).at a = some (List.replicate e false) → a = z) ∧
    ∀ m, dect (walkTable N root) (List.replicate m false) = List.replicate (m / d) z ∧
      decr N root (List.replicate m false) = List.replicate (m / d) z ∧
      (dect (walkTable N root) (List.replicate m false) = [] ↔ m < d)

/-! ### U6, the container (46) -/

/-- 46_container_codec.md R232 (a), R234, R235: parsing the default block of a table gives the table back, for every table of
codes of 1 to 255 bits. -/
def Obligations.TableBlockRoundTrip : Prop := ∀ t : CodeTable, t.wf = true → tblPar (tblSer t) = some t

/-- 46_container_codec.md R232 (f), R235: the default parser accepts exactly the images of the serialiser: what it accepts is
the block of the table it answers, and that table has codes of 1 to 255 bits. -/
def Obligations.TableBlockIsCanonical : Prop :=
  ∀ (B : List Byte) (t : CodeTable), tblPar B = some t → tblSer t = B ∧ t.wf = true

/-- 00_scope.md R9, 46_container_codec.md R232, R233: the machine that `exec`, `step` and `core` are is the machine of any
instance at the parameters `params`, and these meet the constraints of the parameters and the laws of the table block; a default
block has 3 bytes and 2 + ceil8(length) for each entry, at most 8707. The instance's values are the model's choice (log 1 to
4). -/
def Obligations.InstanceParametersAreLegal : Prop :=
  (∀ (i : Instr) (s : State), exec i s = execAt params i s) ∧ (∀ s : State, step s = stepAt params s) ∧
  Sys2Proof.core = coreAt params ∧ params.Legal ∧
  ∀ t : CodeTable, t.wf = true → (tblSer t).length ≤ 8707 ∧
    (tblSer t).length = 3 + (t.toList.map fun e => match e with
      | none => 0
      | some c => 2 + ceil8 c.length).sum

/-- 46_container_codec.md R228, R229, R240: EXPORT completes when the bound and the buffer allow: BLOB is MAGIC, le32(L), the
table block of L bytes, and the payload packed most significant bit first with zero pad bits, 8 + L + ceil8(n) bytes in all;
EMPTY exactly for BITS_LEN = 0; CODE, BITS, BITS_LEN and all else stay. Bytes of BLOB at and above the new length keep what they
held unless BLOB_LEN shrank (the model's reading, log 9). -/
def Obligations.ExportWritesTheContainer : Prop :=
  ∀ s : State, ceil8 s.bitsLen.toNat ≤ s.cfgMaxInput.toNat →
    8 + (tblSer s.code).length + ceil8 s.bitsLen.toNat ≤ params.blobCap →
    ∃ t, exec .exportContainer s = .next t ∧
      t.blobLen.toNat = 8 + (tblSer s.code).length + ceil8 s.bitsLen.toNat ∧
      (∀ i, i < 4 → Mem.lookup i t.blob = params.magic[i]?) ∧
      (∀ i, i < 4 → Mem.lookup (4 + i) t.blob = some (BitVec.ofNat 8 ((tblSer s.code).length / 256 ^ i))) ∧
      (∀ i, i < (tblSer s.code).length → Mem.lookup (8 + i) t.blob = (tblSer s.code)[i]?) ∧
      (∀ j, j < ceil8 s.bitsLen.toNat → ∃ v : Byte, Mem.lookup (8 + (tblSer s.code).length + j) t.blob = some v ∧
        ∀ k, k < 8 → v.getMsbD k = s.payload.getD (8 * j + k) false) ∧
      t.status = (if s.bitsLen = 0#32 then 0x01#8 else 0x00#8) ∧
      (∀ i, t.blobLen.toNat ≤ i → s.blobLen.toNat ≤ t.blobLen.toNat → Mem.lookup i t.blob = Mem.lookup i s.blob) ∧
      t = { s with status := t.status, blob := t.blob, blobLen := t.blobLen }

/-- 46_container_codec.md R248: IMPORT of the container of (T, b) gives T exactly and b followed by the pad zeros, STATUS without
DEGRADED; and the container of that result is the same blob. For every MAGIC and every TBL that returns T from its block, and,
for the instance's own, for every table of codes of 1 to 255 bits. -/
def Obligations.ImportInvertsContainer : Prop :=
  (∀ (P : Params) (t : CodeTable) (b : Bits) (s : State), P.magic.length = 4 → P.tbl.par (P.tbl.ser t) = some t →
    (P.tbl.ser t).length < 2 ^ 32 → 8 * ceil8 b.length ≤ P.bitsCap → P.bitsCap < 2 ^ 32 →
    s.blobBytes = container P t b → s.blobLen.toNat ≤ s.cfgMaxInput.toNat →
    ∃ u, command (importBody P) s = .next u ∧ u.code = t ∧ u.status = 0x00#8 ∧
      u.bitsLen.toNat = 8 * ceil8 b.length ∧
      Holds u.bits (b ++ List.replicate (8 * ceil8 b.length - b.length) false) ∧
      container P u.code (b ++ List.replicate (8 * ceil8 b.length - b.length) false) = s.blobBytes) ∧
  ∀ (t : CodeTable) (b : Bits) (s : State), t.wf = true → s.blobBytes = container params t b →
    s.blobLen.toNat ≤ s.cfgMaxInput.toNat → s.cfgMaxInput.toNat ≤ params.maxInputLimit.toNat →
    ∃ u, exec .importContainer s = .next u ∧ u.code = t ∧ u.status = 0x00#8 ∧
      Holds u.bits (b ++ List.replicate (8 * ceil8 b.length - b.length) false) ∧
      u.bitsLen.toNat = 8 * ceil8 b.length

/-- 46_container_codec.md R245, R246, R247: IMPORT completes under a legal bound; on each of the causes of MalformedContainer,
and only then, it degrades: CODE empty, BITS the whole blob as raw bits, DEGRADED; else CODE is the parsed block and BITS the
rest of the blob; EMPTY exactly for BLOB_LEN = 0; bits at and above
the new length keep what they held unless BITS_LEN shrank (the model's reading, log 9); nothing else changes. -/
def Obligations.ImportParsesOrDegrades : Prop :=
  ∀ s : State, s.blobLen.toNat ≤ s.cfgMaxInput.toNat → s.cfgMaxInput.toNat ≤ params.maxInputLimit.toNat →
    ∃ t, exec .importContainer s = .next t ∧
      (Malformed s.blobBytes → t.status.getLsbD 1 = true ∧ (∀ b, t.code.at b = none) ∧
        Holds t.bits (unpack s.blobBytes) ∧ t.bitsLen.toNat = 8 * s.blobLen.toNat) ∧
      (¬ Malformed s.blobBytes → t.status.getLsbD 1 = false ∧
        tblPar ((s.blobBytes.drop 8).take (unle ((s.blobBytes.drop 4).take 4))) = some t.code ∧
        Holds t.bits (unpack (s.blobBytes.drop (8 + unle ((s.blobBytes.drop 4).take 4)))) ∧
        t.bitsLen.toNat = 8 * (s.blobLen.toNat - 8 - unle ((s.blobBytes.drop 4).take 4))) ∧
      (t.status.getLsbD 0 = true ↔ s.blobLen = 0#32) ∧ (t.status &&& 0xFC#8) = 0#8 ∧
      (∀ i, t.bitsLen.toNat ≤ i → s.bitsLen.toNat ≤ t.bitsLen.toNat → Mem.lookup i t.bits = Mem.lookup i s.bits) ∧
      t = { s with status := t.status, code := t.code, bits := t.bits, bitsLen := t.bitsLen }

/-- 46_container_codec.md R248, R232 (f): a second EXPORT after an IMPORT that did not degrade reproduces the blob byte for
byte. -/
def Obligations.ExportAfterImportReproducesTheBlob : Prop :=
  ∀ s t : State, s.cfgMaxInput.toNat ≤ params.maxInputLimit.toNat → exec .importContainer s = .next t →
    t.status = 0x00#8 → ∃ u, exec .exportContainer t = .next u ∧ u.blobLen = s.blobLen ∧ Holds u.blob s.blobBytes

/-- 46_container_codec.md R250: the per-byte steps of EXPORT write the container, and those of IMPORT, over the whole blob, end
with what IMPORT parses. -/
def Obligations.CodecPerItemStepsAgree : Prop :=
  ∀ P : Params, P.magic.length = 4 →
    (∀ (t : CodeTable) (b : Bits),
      (ExportFsm.step P t b)^[8 + (P.tbl.ser t).length + ceil8 b.length] ExportFsm.start =
        ⟨8 + (P.tbl.ser t).length + ceil8 b.length, container P t b⟩) ∧
    ∀ blob : List Byte, (blob.foldl (ImportFsm.step P) ImportFsm.start).result P = parseContainer P blob

/-! ### Session and compound commands, whole-block laws (47) -/

/-- 47_session_commands.md R260, 70_reset_and_hazards.md R311: SRESET completes in every state: every session element at its
baseline, STATUS 0, CFG_MAX_INPUT and the contents of the buffers kept; so it is the reset state but for those, and a second
SRESET changes nothing. -/
def Obligations.SessionResetBaseline : Prop :=
  ∀ s : State, ∃ t, exec .sreset s = .next t ∧
    (∀ b, t.freq.at b = 0#32) ∧ t.unique = 0#9 ∧ (∀ i, nodeAt t.node i = .free) ∧ t.root = 511#9 ∧ (∀ b, t.code.at b = none) ∧
    t.inLen = 0#32 ∧ t.bitsLen = 0#32 ∧ t.outLen = 0#32 ∧ t.blobLen = 0#32 ∧ t.origBits = 0#32 ∧ t.encBits = 0#32 ∧
    t.ratioX100 = 0#32 ∧ t.errSym = 0#8 ∧ t.errPos = 0#32 ∧ t.status = 0x00#8 ∧
    t = { State.reset with cfgMaxInput := s.cfgMaxInput, input := s.input, bits := s.bits, out := s.out, blob := s.blob,
                           pending := s.pending, response := s.response, draws := s.draws } ∧
    exec .sreset t = .next t

/-- 47_session_commands.md R261, R262, R263: ENCODE leaves exactly what issuing COUNT, BUILD, WALK and EMIT in this order
leaves (in one step, so with one set of free values, log 8). -/
def Obligations.EncodeIsCountBuildWalkEmit : Prop :=
  ∀ s : State, s.inLen.toNat ≤ s.cfgMaxInput.toNat → ∃ t u v, exec .count s = .next t ∧ exec .build t = .next u ∧
    exec .walk u = .next v ∧ exec .encode s = exec .emit v

/-- 47_session_commands.md R263: ENCODE completes for every input that the bound admits and that cannot outgrow BITS even at 255
bits a symbol (longer inputs: EncodedPayloadNeverExceedsTheInput): FREQ counts IN, CODE is prefix-free and covers IN, BITS is the
encoding of IN, EMPTY exactly for an empty input; OUT, BLOB, ERR_SYM, ERR_POS, IN and all else stay. Bits at and above the new
length keep what they held unless BITS_LEN shrank (the model's reading, log 9). -/
def Obligations.EncodeCompletes : Prop :=
  ∀ s : State, s.inLen.toNat ≤ s.cfgMaxInput.toNat → 255 * s.inLen.toNat ≤ params.bitsCap →
    ∃ t, exec .encode s = .next t ∧ (∀ b : Byte, (t.freq.at b).toNat = s.inputBytes.count b) ∧
      t.unique.toNat = s.inputBytes.dedup.length ∧ TreeWf t.node t.root ∧ PrefixFree t.code ∧
      (∀ b, (t.code.at b).isSome = true ↔ b ∈ s.inputBytes) ∧ (∀ b c, t.code.at b = some c ↔ PathTo t.node t.root c b) ∧
      Holds t.bits (codesOf t.code s.inputBytes) ∧ t.bitsLen.toNat = (codesOf t.code s.inputBytes).length ∧
      t.origBits = BitVec.ofNat 32 (8 * s.inLen.toNat) ∧ t.encBits = t.bitsLen ∧
      t.status = (if s.inLen = 0#32 then 0x01#8 else 0x00#8) ∧
      (∀ i, t.bitsLen.toNat ≤ i → s.bitsLen.toNat ≤ t.bitsLen.toNat → Mem.lookup i t.bits = Mem.lookup i s.bits) ∧
      t = { s with status := t.status, freq := t.freq, unique := t.unique, node := t.node, root := t.root, code := t.code,
                   bits := t.bits, bitsLen := t.bitsLen, origBits := t.origBits, encBits := t.encBits,
                   ratioX100 := t.ratioX100 }

/-- 44_bitstream_encoder.md R193, R192: an ENCODE that the bound admits is never refused: BITS_LEN ≤ 8 × IN_LEN, equal to
IN_LEN when one symbol is present, and 0 ≤ RATIO_X100 ≤ 8750. -/
def Obligations.EncodedPayloadNeverExceedsTheInput : Prop :=
  ∀ s : State, s.inLen.toNat ≤ s.cfgMaxInput.toNat → s.cfgMaxInput.toNat ≤ params.maxInputLimit.toNat →
    ∃ t, exec .encode s = .next t ∧ t.bitsLen.toNat ≤ 8 * s.inLen.toNat ∧
      (t.unique = 1#9 → t.bitsLen = s.inLen) ∧ 0 ≤ t.ratioX100.toInt ∧ t.ratioX100.toInt ≤ 8750

/-- 44_bitstream_encoder.md R194: UnknownSymbol cannot occur inside ENCODE, nor in any command but EMIT, and ENCODE leaves
ERR_SYM and ERR_POS alone. -/
def Obligations.UnknownSymbolOnlyFromEmit : Prop :=
  ∀ (i : Instr) (s t : State), i ≠ .emit → exec i s = .next t → t.status.getLsbD 2 = false ∧
    (i = .encode → t.errSym = s.errSym ∧ t.errPos = s.errPos)

/-- 47_session_commands.md R270, for a payload that the bound admits: ENCODE then DECT, and ENCODE then DECR, give back the
input. -/
def Obligations.EncodeThenDecodeWhenThePayloadFits : Prop :=
  ∀ s t : State, s.cfgMaxInput.toNat ≤ params.maxInputLimit.toNat → exec .encode s = .next t → t.status ≠ 0x08#8 →
    ceil8 t.bitsLen.toNat ≤ t.cfgMaxInput.toNat →
    (∃ u, exec .dect t = .next u ∧ u.outBytes = s.inputBytes) ∧ ∃ u, exec .decr t = .next u ∧ u.outBytes = s.inputBytes

/-- 47_session_commands.md R270: for every byte sequence x with len(x) ≤ CFG_MAX_INPUT, ENCODE then DECT gives
OUT[0..OUT_LEN) = x; likewise with DECR. -/
def Obligations.EncodeThenDecodeGivesTheInput : Prop :=
  ∀ s : State, s.inLen.toNat ≤ s.cfgMaxInput.toNat → s.cfgMaxInput.toNat ≤ params.maxInputLimit.toNat →
    ∃ t, exec .encode s = .next t ∧ (∃ u, exec .dect t = .next u ∧ u.outBytes = s.inputBytes) ∧
      ∃ u, exec .decr t = .next u ∧ u.outBytes = s.inputBytes

/-- 47_session_commands.md R266, R262: UNPACK leaves exactly what issuing IMPORT and then DECT leaves, with STATUS the OR of the
two; it completes under a legal bound. -/
def Obligations.UnpackIsImportThenDect : Prop :=
  ∀ s : State, s.blobLen.toNat ≤ s.cfgMaxInput.toNat → s.cfgMaxInput.toNat ≤ params.maxInputLimit.toNat →
    ∃ t u, exec .importContainer s = .next t ∧ exec .dect t = .next u ∧
      exec .unpack s = .next { u with status := t.status ||| u.status } ∧
      (t.status.getLsbD 1 = true → u.outLen = 0#32)

/-- 47_session_commands.md R271: ENCODE; EXPORT; the blob carried to a state `v` of any instance with these parameters; IMPORT;
DECT gives x followed by floor(m / d) copies of the symbol with the all-zero code; with BITS_LEN lowered to ENC_BITS before
DECT it gives x exactly. -/
def Obligations.EncodeExportImportDecode : Prop :=
  ∀ s t u v : State, s.cfgMaxInput.toNat ≤ params.maxInputLimit.toNat → exec .encode s = .next t → t.status = 0x00#8 →
    exec .exportContainer t = .next u → u.status = 0x00#8 → v.blobBytes = u.blobBytes →
    v.blobLen.toNat ≤ v.cfgMaxInput.toNat → v.cfgMaxInput.toNat ≤ params.maxInputLimit.toNat →
    ∃ w, exec .importContainer v = .next w ∧
      (∃ y, exec .dect (regWrite params 4 t.encBits w) = .next y ∧ y.outBytes = s.inputBytes) ∧
      ∃ y z d, exec .dect w = .next y ∧ t.code.at z = some (List.replicate d false) ∧
        y.outBytes = s.inputBytes ++
          List.replicate ((8 * ceil8 t.bitsLen.toNat - t.bitsLen.toNat) / d) z

/-! ### Conditions (60) -/

/-- 60_exceptions.md R285: each command with a capacity check raises CapacityExceeded when the byte length it reads exceeds
CFG_MAX_INPUT, with STATUS = 0x08 and no other element changed; SRESET, BUILD and WALK never do; with CFG_MAX_INPUT = 0 every
empty input is accepted. -/
def Obligations.CapacityIsRejectedBeforeAnyProcessing : Prop :=
  ∀ s : State,
    (s.cfgMaxInput.toNat < s.inLen.toNat → ∀ i ∈ [Instr.count, .emit, .encode],
      exec i s = .next { s with status := 0x08#8 }) ∧
    (s.cfgMaxInput.toNat < ceil8 s.bitsLen.toNat → ∀ i ∈ [Instr.dect, .decr, .exportContainer],
      exec i s = .next { s with status := 0x08#8 }) ∧
    (s.cfgMaxInput.toNat < s.blobLen.toNat → ∀ i ∈ [Instr.importContainer, .unpack],
      exec i s = .next { s with status := 0x08#8 }) ∧
    ∀ i t, exec i s = .next t → t.status.getLsbD 3 = true →
      (i ∈ [Instr.count, .emit, .encode] ∧ s.cfgMaxInput.toNat < s.inLen.toNat) ∨
      (i ∈ [Instr.dect, .decr, .exportContainer] ∧ s.cfgMaxInput.toNat < ceil8 s.bitsLen.toNat) ∨
      (i ∈ [Instr.importContainer, .unpack] ∧ s.cfgMaxInput.toNat < s.blobLen.toNat)

/-- 60_exceptions.md R283: a command that sets no fatal flag sets EMPTY exactly when its primary input is empty. -/
def Obligations.EmptyExactlyForEmptyInput : Prop :=
  ∀ (i : Instr) (s t : State), exec i s = .next t → (t.status &&& 0x1C#8) = 0#8 →
    (t.status.getLsbD 0 = true ↔ EmptyInput i s t)

/-- 30_encoding.md R95, 60_exceptions.md R287: the STATUS values that can occur after a command are 0x00, 0x01, 0x02, 0x03, 0x04,
0x08, and 0x10 after an illegal word; 0x03 only after IMPORT or UNPACK of a zero-length blob; and each of them is left by a step
that issues a word in some state that meets the invariant. -/
def Obligations.StatusValuesAreExactlySeven : Prop :=
  (∀ (s t : State) (op : HostOp) (rest : List HostOp) (c : BitVec 8), s.pending = op :: rest → Issues op c →
    step s = .next t →
    t.status ∈ [0x00#8, 0x01#8, 0x02#8, 0x03#8, 0x04#8, 0x08#8, 0x10#8] ∧
    (t.status = 0x03#8 → (c = 0x09#8 ∨ c = 0x0B#8) ∧ s.blobLen = 0#32) ∧
    (t.status = 0x10#8 ↔ (c.toNat = 0 ∨ 11 < c.toNat))) ∧
  ∀ v ∈ [0x00#8, 0x01#8, 0x02#8, 0x03#8, 0x04#8, 0x08#8, 0x10#8], ∃ (s t : State) (op : HostOp) (rest : List HostOp)
    (c : BitVec 8), s.Inv ∧ s.status ≠ v ∧ s.pending = op :: rest ∧ Issues op c ∧ step s = .next t ∧ t.status = v

/-! ### Whole-machine statements -/

/-- 10_state.md R53, write sets: what each command leaves unchanged. Every register and table outside its row stays; a buffer
it writes changes only below the new length, unless that is shorter than the old one (log 9). -/
def Obligations.CommandsWriteOnlyTheirOutputs : Prop :=
  ∀ s t : State,
    (exec .count s = .next t → t = { s with status := t.status, freq := t.freq, unique := t.unique }) ∧
    (exec .build s = .next t → t = { s with status := t.status, node := t.node, root := t.root }) ∧
    (exec .walk s = .next t → t = { s with status := t.status, code := t.code }) ∧
    (exec .emit s = .next t → t = { s with
        status := t.status, bits := t.bits, bitsLen := t.bitsLen, origBits := t.origBits, encBits := t.encBits,
        ratioX100 := t.ratioX100, errSym := t.errSym, errPos := t.errPos } ∧
      (t.status.getLsbD 2 = false → t.errSym = s.errSym ∧ t.errPos = s.errPos ∧
        ∀ i, t.bitsLen.toNat ≤ i → s.bitsLen.toNat ≤ t.bitsLen.toNat → Mem.lookup i t.bits = Mem.lookup i s.bits)) ∧
    ((exec .dect s = .next t ∨ exec .decr s = .next t) →
      t = { s with status := t.status, out := t.out, outLen := t.outLen } ∧
      ∀ i, t.outLen.toNat ≤ i → s.outLen.toNat ≤ t.outLen.toNat → Mem.lookup i t.out = Mem.lookup i s.out) ∧
    (exec .exportContainer s = .next t → t = { s with status := t.status, blob := t.blob, blobLen := t.blobLen } ∧
      ∀ i, t.blobLen.toNat ≤ i → s.blobLen.toNat ≤ t.blobLen.toNat → Mem.lookup i t.blob = Mem.lookup i s.blob) ∧
    (exec .importContainer s = .next t →
      t = { s with status := t.status, code := t.code, bits := t.bits, bitsLen := t.bitsLen } ∧
      ∀ i, t.bitsLen.toNat ≤ i → s.bitsLen.toNat ≤ t.bitsLen.toNat → Mem.lookup i t.bits = Mem.lookup i s.bits) ∧
    (exec .encode s = .next t → t = { s with
        status := t.status, freq := t.freq, unique := t.unique, node := t.node, root := t.root, code := t.code,
        bits := t.bits, bitsLen := t.bitsLen, origBits := t.origBits, encBits := t.encBits, ratioX100 := t.ratioX100 } ∧
      ∀ i, t.bitsLen.toNat ≤ i → s.bitsLen.toNat ≤ t.bitsLen.toNat → Mem.lookup i t.bits = Mem.lookup i s.bits) ∧
    (exec .unpack s = .next t →
      t = { s with status := t.status, code := t.code, bits := t.bits, bitsLen := t.bitsLen, out := t.out, outLen := t.outLen } ∧
      (∀ i, t.bitsLen.toNat ≤ i → s.bitsLen.toNat ≤ t.bitsLen.toNat → Mem.lookup i t.bits = Mem.lookup i s.bits) ∧
      ∀ i, t.outLen.toNat ≤ i → s.outLen.toNat ≤ t.outLen.toNat → Mem.lookup i t.out = Mem.lookup i s.out)

/-- 10_state.md R53, read sets, 47_session_commands.md R272 "Every command is a function of the state at its start" and R263 "ENCODE
is a function of IN[0..IN_LEN) alone": two states that agree on what a command reads get the same outputs from it, whatever else
they hold. One clause a command; SRESET reads nothing, and SessionResetBaseline gives its outputs. -/
def Obligations.OutputsDependOnTheOperandsOnly : Prop :=
  ∀ s s' : State, s.cfgMaxInput = s'.cfgMaxInput →
    (s.inLen = s'.inLen → s.inputBytes = s'.inputBytes → SameRun (fun t t' => t.status = t'.status ∧
      (t.status.getLsbD 3 = false → t.freq = t'.freq ∧ t.unique = t'.unique)) (exec .count s) (exec .count s')) ∧
    (s.freq = s'.freq → SameRun (fun t t' => t.status = t'.status ∧ t.node = t'.node ∧ t.root = t'.root)
      (exec .build s) (exec .build s')) ∧
    (s.node = s'.node → s.root = s'.root → SameRun (fun t t' => t.status = t'.status ∧ t.code = t'.code)
      (exec .walk s) (exec .walk s')) ∧
    (s.inLen = s'.inLen → s.inputBytes = s'.inputBytes → s.code = s'.code → SameRun (fun t t' => t.status = t'.status ∧
      (t.status.getLsbD 3 = false → t.bitsLen = t'.bitsLen ∧ t.payload = t'.payload) ∧
      (t.status.getLsbD 3 = false → t.status.getLsbD 2 = false →
        t.origBits = t'.origBits ∧ t.encBits = t'.encBits ∧ t.ratioX100 = t'.ratioX100) ∧
      (t.status.getLsbD 2 = true → t.errSym = t'.errSym ∧ t.errPos = t'.errPos)) (exec .emit s) (exec .emit s')) ∧
    (s.bitsLen = s'.bitsLen → s.payload = s'.payload → s.code = s'.code → SameRun (fun t t' => t.status = t'.status ∧
      (t.status.getLsbD 3 = false → t.outLen = t'.outLen ∧ t.outBytes = t'.outBytes)) (exec .dect s) (exec .dect s')) ∧
    (s.bitsLen = s'.bitsLen → s.payload = s'.payload → s.node = s'.node → s.root = s'.root →
      SameRun (fun t t' => t.status = t'.status ∧
        (t.status.getLsbD 3 = false → t.outLen = t'.outLen ∧ t.outBytes = t'.outBytes)) (exec .decr s) (exec .decr s')) ∧
    (s.bitsLen = s'.bitsLen → s.payload = s'.payload → s.code = s'.code → SameRun (fun t t' => t.status = t'.status ∧
      (t.status.getLsbD 3 = false → t.blobLen = t'.blobLen ∧ t.blobBytes = t'.blobBytes))
      (exec .exportContainer s) (exec .exportContainer s')) ∧
    (s.blobLen = s'.blobLen → s.blobBytes = s'.blobBytes → SameRun (fun t t' => t.status = t'.status ∧
      (t.status.getLsbD 3 = false → t.code = t'.code ∧ t.bitsLen = t'.bitsLen ∧ t.payload = t'.payload))
      (exec .importContainer s) (exec .importContainer s')) ∧
    (s.inLen = s'.inLen → s.inputBytes = s'.inputBytes → SameRun (fun t t' => t.status = t'.status ∧
      (t.status.getLsbD 3 = false → t.freq = t'.freq ∧ t.unique = t'.unique ∧ t.node = t'.node ∧ t.root = t'.root ∧
        t.code = t'.code ∧ t.bitsLen = t'.bitsLen ∧ t.payload = t'.payload ∧ t.origBits = t'.origBits ∧
        t.encBits = t'.encBits ∧ t.ratioX100 = t'.ratioX100)) (exec .encode s) (exec .encode s')) ∧
    (s.blobLen = s'.blobLen → s.blobBytes = s'.blobBytes → SameRun (fun t t' => t.status = t'.status ∧
      (t.status.getLsbD 3 = false → t.code = t'.code ∧ t.bitsLen = t'.bitsLen ∧ t.payload = t'.payload ∧
        t.outLen = t'.outLen ∧ t.outBytes = t'.outBytes)) (exec .unpack s) (exec .unpack s'))

/-- The state after reset of every legal instance meets that instance's invariant, and `State.reset` that of the instance `step`
runs (10_state.md R51, R52). -/
def Obligations.ResetMeetsTheInvariant : Prop := (∀ P : Params, P.Legal → InvAt P (resetAt P)) ∧ State.reset.Inv

/-- 10_state.md R52: on every legal instance (00_scope.md R9), from every state that meets the invariant, every step that answers a
next state leaves one that meets it; and so does `step`: UNIQUE counts the present symbols, the counters sum to at most
2^28 − 1, the tree is well formed, codes have 1 to 255 bits, STATUS is one of its seven values, the statistics fit each other,
the bound is legal, the buffers keep their canonical form. -/
def Obligations.EveryStepKeepsTheInvariant : Prop :=
  (∀ (P : Params) (s t : State), P.Legal → InvAt P s → stepAt P s = .next t → InvAt P t) ∧
  ∀ s t : State, s.Inv → step s = .next t → t.Inv

/-- 20_memory.md R69, 60_exceptions.md R282: on every legal instance, from a state that meets the invariant a step never faults,
and is refused only for an EMIT or ENCODE whose bits outgrow BITS (ENCODE never, by EncodedPayloadNeverExceedsTheInput), an EXPORT
whose blob is longer than BLOB_CAP, or a host write whose element is not of the space's type (log 12). On the instance that
`step` runs EXPORT is never refused either: that rests on its BLOB_CAP, the model's choice (log 2). -/
def Obligations.OnlyOverflowAndIllTypedWritesAreRefused : Prop :=
  (∀ (P : Params) (s : State), P.Legal → InvAt P s → (∀ f, stepAt P s ≠ .fault f) ∧ ∀ r, stepAt P s = .refused r →
    (r = .illTypedElement ∧ ∃ sp i e rest, s.pending = .bufWrite sp i e :: rest ∧ (HostOp.bufWrite sp i e).wf = false) ∨
    (r = .bufferOverflow .bits ∧ ∃ op rest c, s.pending = op :: rest ∧ Issues op c ∧ (c = 0x05#8 ∨ c = 0x0A#8)) ∨
    (r = .bufferOverflow .blob ∧ P.blobCap < 8 + (P.tbl.ser s.code).length + ceil8 s.bitsLen.toNat ∧
      ∃ op rest, s.pending = op :: rest ∧ Issues op 0x08#8)) ∧
  ∀ s : State, s.Inv → step s ≠ .refused (.bufferOverflow .blob)
end

