-- ==== Sys2Proof/Laws/Bits.lean ====
section
/-! SUPPORT. The laws of packing and of the little-endian fields. -/

namespace Sys2Proof.Machine

theorem byteOfBits_getMsbD (f : Nat → Bool) (i : Nat) (h : i < 8) : (byteOfBits f).getMsbD i = f i := by
  unfold byteOfBits
  rw [BitVec.getMsbD_ofBoolListBE]
  rcases i with _ | _ | _ | _ | _ | _ | _ | _ | i <;> first | rfl | omega

@[simp] theorem length_byteBits (v : Byte) : (byteBits v).length = 8 := rfl

theorem getElem_byteBits (v : Byte) (i : Nat) (h : i < (byteBits v).length) : (byteBits v)[i] = v.getMsbD i := by
  rcases i with _ | _ | _ | _ | _ | _ | _ | _ | i <;> first | rfl | (simp at h; omega)

/-- A byte is made of its bits. -/
theorem byteOfBits_of_eq (v : Byte) (f : Nat → Bool) (h : ∀ i, i < 8 → f i = v.getMsbD i) : byteOfBits f = v := by
  apply BitVec.eq_of_getMsbD_eq
  intro i hi
  rw [byteOfBits_getMsbD f i hi, h i hi]

@[simp] theorem length_pack (b : Bits) : (pack b).length = ceil8 b.length := by simp [pack]

@[simp] theorem unpack_nil : unpack [] = [] := rfl

@[simp] theorem unpack_cons (v : Byte) (B : List Byte) : unpack (v :: B) = byteBits v ++ unpack B := by simp [unpack]

@[simp] theorem unpack_append (A B : List Byte) : unpack (A ++ B) = unpack A ++ unpack B := by simp [unpack]

@[simp] theorem length_unpack : ∀ B : List Byte, (unpack B).length = 8 * B.length
  | [] => rfl
  | v :: B => by rw [unpack_cons, List.length_append, length_unpack B, length_byteBits, List.length_cons]; omega

/-- Element n of the unpacked sequence is bit (n mod 8), from the most significant, of byte n / 8. -/
theorem getElem_unpack : ∀ (B : List Byte) (n : Nat) (h : n < (unpack B).length),
    (unpack B)[n] = (B[n / 8]'(by rw [length_unpack] at h; omega)).getMsbD (n % 8)
  | [], n, h => by simp at h
  | v :: B, n, h => by
    simp only [unpack_cons] at h ⊢
    by_cases hn : n < 8
    · rw [List.getElem_append_left (by simpa using hn), getElem_byteBits]
      have h0 : n / 8 = 0 := by omega
      have h1 : n % 8 = n := by omega
      simp [h0, h1]
    · rw [List.getElem_append_right (by simpa using hn)]
      rw [getElem_unpack B]
      have h0 : n / 8 = (n - 8) / 8 + 1 := by omega
      have h1 : (n - 8) % 8 = n % 8 := by omega
      simp only [length_byteBits, h1]
      congr 1
      simp [h0]

/-- `unpack(pack(b)) = b ++ zeros(8·ceil8(n) − n)` (00_scope.md R12). -/
theorem unpack_pack (b : Bits) : unpack (pack b) = b ++ List.replicate (8 * ceil8 b.length - b.length) false := by
  apply List.ext_getElem
  · simp [ceil8]; omega
  · intro n h1 h2
    rw [getElem_unpack]
    simp only [pack, List.getElem_map, List.getElem_range, packByte]
    rw [byteOfBits_getMsbD _ _ (by omega)]
    have : 8 * (n / 8) + n % 8 = n := by omega
    rw [this]
    by_cases hn : n < b.length
    · rw [List.getElem_append_left hn]; simp [List.getD, hn]
    · rw [List.getElem_append_right (by omega)]; simp [List.getD, hn]

/-- `pack(unpack(B)) = B` (R12). -/
theorem pack_unpack (B : List Byte) : pack (unpack B) = B := by
  apply List.ext_getElem
  · simp [ceil8]; omega
  · intro j h1 h2
    simp only [pack, List.getElem_map, List.getElem_range, packByte]
    apply byteOfBits_of_eq
    intro i hi
    have hb : 8 * j + i < (unpack B).length := by rw [length_unpack]; omega
    rw [List.getD_eq_getElem _ _ hb, getElem_unpack]
    have h3 : (8 * j + i) / 8 = j := by omega
    have h4 : (8 * j + i) % 8 = i := by omega
    simp only [h3, h4]

theorem pack_nil : pack [] = [] := rfl

@[simp] theorem length_le32 (v : Nat) : (le32 v).length = 4 := rfl

@[simp] theorem length_le16 (v : Nat) : (le16 v).length = 2 := rfl

/-- `unle32` is the inverse of `le32` below 2^32 (R13). -/
theorem unle_le32 (v : Nat) (h : v < 2 ^ 32) : unle (le32 v) = v := by
  simp only [le32, unle, BitVec.toNat_ofNat]; omega

/-- `unle16` is the inverse of `le16` below 2^16 (R13). -/
theorem unle_le16 (v : Nat) (h : v < 2 ^ 16) : unle (le16 v) = v := by
  simp only [le16, unle, BitVec.toNat_ofNat]; omega

theorem unle_lt : ∀ B : List Byte, unle B < 2 ^ (8 * B.length)
  | [] => by simp [unle]
  | b :: B => by
    have h1 := unle_lt B
    have h2 := b.isLt
    simp only [unle, List.length_cons, Nat.mul_add, Nat.mul_one, Nat.pow_add]
    omega

end Sys2Proof.Machine
end

