-- ==== Sys2Proof/Laws/Mem.lean ====
section
/-! SUPPORT. The laws of a buffer: what a lookup gives after each write, the canonical form, and what a read gives. -/

namespace Sys2Proof.Machine.Mem

variable {α : Type}

@[simp] theorem lookup_nil (i : Nat) : lookup i ([] : List (Nat × α)) = none := rfl

theorem lookup_cons (i k : Nat) (v : α) (m : List (Nat × α)) :
    lookup i ((k, v) :: m) = if k = i then some v else lookup i m := rfl

/-- Nothing below the first index is listed. -/
theorem lookup_below {cap lo i : Nat} : ∀ {m : List (Nat × α)}, risingFrom lo cap m = true → i < lo → lookup i m = none
  | [], _, _ => rfl
  | (k, v) :: m, h, hi => by
    simp only [risingFrom, Bool.and_eq_true, decide_eq_true_eq] at h
    rw [lookup_cons, if_neg (by omega)]
    exact lookup_below h.2 (by omega)

/-- A read after a write: the value written at its index, the old one elsewhere. -/
theorem lookup_write {cap lo : Nat} (i j : Nat) (v : α) : ∀ {m : List (Nat × α)}, risingFrom lo cap m = true →
    lookup j (write i v m) = if j = i then some v else lookup j m
  | [], _ => by simp only [write, lookup_cons, lookup_nil, eq_comm]
  | (k, w) :: m, h => by
    simp only [risingFrom, Bool.and_eq_true, decide_eq_true_eq] at h
    simp only [write]
    split
    · simp only [lookup_cons, eq_comm]
    · split
      · subst_vars
        by_cases hj : j = k
        · subst hj; simp [lookup_cons]
        · have : ¬ k = j := fun h' => hj h'.symm
          simp [lookup_cons, hj, this]
      · simp only [lookup_cons]
        rw [lookup_write i j v h.2]
        by_cases hj : j = i
        · subst hj; simp_all
        · by_cases hk : k = j <;> simp_all

/-- A write keeps the canonical form. -/
theorem write_risingFrom {cap lo : Nat} (i : Nat) (v : α) (hi : i < cap) : ∀ {m : List (Nat × α)},
    risingFrom lo cap m = true → lo ≤ i → risingFrom lo cap (write i v m) = true
  | [], _, hlo => by simp [write, risingFrom, hlo, hi]
  | (k, w) :: m, h, hlo => by
    simp only [risingFrom, Bool.and_eq_true, decide_eq_true_eq] at h
    simp only [write]
    split
    · simp only [risingFrom, Bool.and_eq_true, decide_eq_true_eq]; refine ⟨⟨hlo, hi⟩, ⟨by omega, h.1.2⟩, h.2⟩
    · split
      · subst_vars; simp only [risingFrom, Bool.and_eq_true, decide_eq_true_eq]; exact ⟨⟨hlo, hi⟩, h.2⟩
      · simp only [risingFrom, Bool.and_eq_true, decide_eq_true_eq]
        exact ⟨h.1, write_risingFrom i v hi h.2 (by omega)⟩

/-- A write below the capacity keeps the canonical form. -/
theorem write_wf {cap : Nat} (i : Nat) (v : α) (hi : i < cap) {m : List (Nat × α)} (h : wf cap m = true) :
    wf cap (write i v m) = true := write_risingFrom i v hi h (Nat.zero_le i)

/-- What the cells of a sequence hold, followed by other cells. -/
theorem lookup_cells_append (j : Nat) (m : List (Nat × α)) : ∀ (l : List α) (i : Nat),
    lookup j (cells i l ++ m) = if h : i ≤ j ∧ j < i + l.length then some (l[j - i]'(by omega)) else lookup j m
  | [], i => by simp only [cells, List.nil_append, List.length_nil]; rw [dif_neg (by omega)]
  | v :: l, i => by
    simp only [cells, List.cons_append, lookup_cons, List.length_cons]
    by_cases hij : i = j
    · subst hij; simp
    · rw [if_neg hij, lookup_cells_append j m l (i + 1)]
      by_cases h : i + 1 ≤ j ∧ j < i + 1 + l.length
      · rw [dif_pos h, dif_pos (by omega)]
        have : j - i = (j - (i + 1)) + 1 := by omega
        simp [this]
      · rw [dif_neg h, dif_neg (by omega)]

theorem lookup_cells (j : Nat) (l : List α) : lookup j (cells 0 l) = l[j]? := by
  have h := lookup_cells_append j [] l 0
  rw [List.append_nil] at h
  rw [h]
  by_cases hj : j < l.length <;> simp [hj]

theorem lookup_filter_ge (n j : Nat) : ∀ m : List (Nat × α),
    lookup j (m.filter fun c => n ≤ c.1) = if n ≤ j then lookup j m else none
  | [] => by simp
  | (k, v) :: m => by
    simp only [List.filter_cons]
    by_cases hk : n ≤ k
    · simp only [hk, decide_true, if_true, lookup_cons]
      rw [lookup_filter_ge n j m]
      by_cases hkj : k = j
      · subst hkj; simp [hk]
      · simp [hkj]
    · simp only [hk, decide_false, Bool.false_eq_true, if_false, lookup_cons]
      rw [lookup_filter_ge n j m]
      by_cases hkj : k = j
      · subst hkj; simp [hk]
      · simp [hkj]

/-- After a command's write of `l` from index 0: `l` below its length; at and above it the old content when the length did
not shrink, nothing (any value) when it did. -/
theorem lookup_replace (l : List α) (old : Nat) (m : List (Nat × α)) (j : Nat) :
    lookup j (replace l old m) =
      if j < l.length then l[j]? else if l.length < old then none else lookup j m := by
  unfold replace
  split
  · rw [lookup_cells]; split
    · rfl
    · simp; omega
  · rw [lookup_cells_append j _ l 0, lookup_filter_ge]
    by_cases hj : j < l.length
    · simp [hj]
    · simp [hj]

theorem risingFrom_mono {cap lo lo' : Nat} (hlo : lo' ≤ lo) : ∀ {m : List (Nat × α)}, risingFrom lo cap m = true →
    risingFrom lo' cap m = true
  | [], _ => rfl
  | (k, v) :: m, h => by
    simp only [risingFrom, Bool.and_eq_true, decide_eq_true_eq] at h ⊢
    exact ⟨⟨by omega, h.1.2⟩, h.2⟩

theorem filter_risingFrom {cap lo : Nat} (n : Nat) : ∀ {m : List (Nat × α)}, risingFrom lo cap m = true →
    risingFrom (max n lo) cap (m.filter fun c => n ≤ c.1) = true
  | [], _ => rfl
  | (k, v) :: m, h => by
    simp only [risingFrom, Bool.and_eq_true, decide_eq_true_eq] at h
    simp only [List.filter_cons]
    have ih := filter_risingFrom n h.2
    by_cases hk : n ≤ k
    · simp only [hk, decide_true, if_true, risingFrom, Bool.and_eq_true, decide_eq_true_eq]
      exact ⟨⟨by omega, h.1.2⟩, by rwa [Nat.max_eq_right (by omega)] at ih⟩
    · simp only [hk, decide_false, Bool.false_eq_true, if_false]
      exact risingFrom_mono (by omega) ih

theorem cells_risingFrom {cap : Nat} (m : List (Nat × α)) : ∀ (l : List α) (i : Nat), i + l.length ≤ cap →
    risingFrom (i + l.length) cap m = true → risingFrom i cap (cells i l ++ m) = true
  | [], _, _, h => h
  | v :: l, i, hl, h => by
    simp only [List.length_cons] at hl h
    simp only [cells, List.cons_append, risingFrom, Bool.and_eq_true, decide_eq_true_eq]
    exact ⟨⟨Nat.le_refl _, by omega⟩, cells_risingFrom m l (i + 1) (by omega) (by rwa [show i + 1 + l.length = i + (l.length + 1) by omega])⟩

/-- A command's write within the capacity keeps the canonical form. -/
theorem replace_wf {cap : Nat} (l : List α) (old : Nat) {m : List (Nat × α)} (hl : l.length ≤ cap)
    (h : wf cap m = true) : wf cap (replace l old m) = true := by
  unfold replace wf
  split
  · have := cells_risingFrom (cap := cap) ([] : List (Nat × α)) l 0 (by omega) rfl
    rwa [List.append_nil] at this
  · refine cells_risingFrom _ l 0 (by omega) (risingFrom_mono ?_ (filter_risingFrom l.length h))
    omega

theorem wf_nil (cap : Nat) : wf cap ([] : List (Nat × α)) = true := rfl

@[simp] theorem length_read (free : Nat → α) (n : Nat) (m : List (Nat × α)) : (read free n m).length = n := by
  simp [read]

theorem getElem_read (free : Nat → α) (n : Nat) (m : List (Nat × α)) (i : Nat) (h : i < (read free n m).length) :
    (read free n m)[i] = (lookup i m).getD (free i) := by simp [read]

/-- A read of a run that has been written gives what was written, whatever the free values are. -/
theorem read_eq (free : Nat → α) (l : List α) (m : List (Nat × α))
    (h : ∀ (i : Nat) (hi : i < l.length), lookup i m = some l[i]) : read free l.length m = l := by
  apply List.ext_getElem (by simp)
  intro i h1 h2
  rw [getElem_read, h i h2]; rfl

end Sys2Proof.Machine.Mem
end

