-- ==== Sys2Proof/Laws/State.lean ====
section
/-! SUPPORT. One lemma per field per update of the state. -/

namespace Sys2Proof.Machine

variable (s : State)

@[simp] theorem State.clearStatus_status : s.clearStatus.status = 0#8 := rfl
@[simp] theorem State.clearStatus_cfgMaxInput : s.clearStatus.cfgMaxInput = s.cfgMaxInput := rfl
@[simp] theorem State.clearStatus_inLen : s.clearStatus.inLen = s.inLen := rfl
@[simp] theorem State.clearStatus_bitsLen : s.clearStatus.bitsLen = s.bitsLen := rfl
@[simp] theorem State.clearStatus_outLen : s.clearStatus.outLen = s.outLen := rfl
@[simp] theorem State.clearStatus_blobLen : s.clearStatus.blobLen = s.blobLen := rfl
@[simp] theorem State.clearStatus_root : s.clearStatus.root = s.root := rfl
@[simp] theorem State.clearStatus_unique : s.clearStatus.unique = s.unique := rfl
@[simp] theorem State.clearStatus_origBits : s.clearStatus.origBits = s.origBits := rfl
@[simp] theorem State.clearStatus_encBits : s.clearStatus.encBits = s.encBits := rfl
@[simp] theorem State.clearStatus_ratioX100 : s.clearStatus.ratioX100 = s.ratioX100 := rfl
@[simp] theorem State.clearStatus_errSym : s.clearStatus.errSym = s.errSym := rfl
@[simp] theorem State.clearStatus_errPos : s.clearStatus.errPos = s.errPos := rfl
@[simp] theorem State.clearStatus_freq : s.clearStatus.freq = s.freq := rfl
@[simp] theorem State.clearStatus_node : s.clearStatus.node = s.node := rfl
@[simp] theorem State.clearStatus_code : s.clearStatus.code = s.code := rfl
@[simp] theorem State.clearStatus_input : s.clearStatus.input = s.input := rfl
@[simp] theorem State.clearStatus_bits : s.clearStatus.bits = s.bits := rfl
@[simp] theorem State.clearStatus_out : s.clearStatus.out = s.out := rfl
@[simp] theorem State.clearStatus_blob : s.clearStatus.blob = s.blob := rfl
@[simp] theorem State.clearStatus_pending : s.clearStatus.pending = s.pending := rfl
@[simp] theorem State.clearStatus_response : s.clearStatus.response = s.response := rfl
@[simp] theorem State.clearStatus_draws : s.clearStatus.draws = s.draws := rfl

@[simp] theorem State.flag_status (f : BitVec 8) : (s.flag f).status = s.status ||| f := rfl
@[simp] theorem State.flag_cfgMaxInput (f : BitVec 8) : (s.flag f).cfgMaxInput = s.cfgMaxInput := rfl
@[simp] theorem State.flag_inLen (f : BitVec 8) : (s.flag f).inLen = s.inLen := rfl
@[simp] theorem State.flag_bitsLen (f : BitVec 8) : (s.flag f).bitsLen = s.bitsLen := rfl
@[simp] theorem State.flag_outLen (f : BitVec 8) : (s.flag f).outLen = s.outLen := rfl
@[simp] theorem State.flag_blobLen (f : BitVec 8) : (s.flag f).blobLen = s.blobLen := rfl
@[simp] theorem State.flag_root (f : BitVec 8) : (s.flag f).root = s.root := rfl
@[simp] theorem State.flag_unique (f : BitVec 8) : (s.flag f).unique = s.unique := rfl
@[simp] theorem State.flag_origBits (f : BitVec 8) : (s.flag f).origBits = s.origBits := rfl
@[simp] theorem State.flag_encBits (f : BitVec 8) : (s.flag f).encBits = s.encBits := rfl
@[simp] theorem State.flag_ratioX100 (f : BitVec 8) : (s.flag f).ratioX100 = s.ratioX100 := rfl
@[simp] theorem State.flag_errSym (f : BitVec 8) : (s.flag f).errSym = s.errSym := rfl
@[simp] theorem State.flag_errPos (f : BitVec 8) : (s.flag f).errPos = s.errPos := rfl
@[simp] theorem State.flag_freq (f : BitVec 8) : (s.flag f).freq = s.freq := rfl
@[simp] theorem State.flag_node (f : BitVec 8) : (s.flag f).node = s.node := rfl
@[simp] theorem State.flag_code (f : BitVec 8) : (s.flag f).code = s.code := rfl
@[simp] theorem State.flag_input (f : BitVec 8) : (s.flag f).input = s.input := rfl
@[simp] theorem State.flag_bits (f : BitVec 8) : (s.flag f).bits = s.bits := rfl
@[simp] theorem State.flag_out (f : BitVec 8) : (s.flag f).out = s.out := rfl
@[simp] theorem State.flag_blob (f : BitVec 8) : (s.flag f).blob = s.blob := rfl
@[simp] theorem State.flag_pending (f : BitVec 8) : (s.flag f).pending = s.pending := rfl
@[simp] theorem State.flag_response (f : BitVec 8) : (s.flag f).response = s.response := rfl
@[simp] theorem State.flag_draws (f : BitVec 8) : (s.flag f).draws = s.draws := rfl

@[simp] theorem State.withFreq_status (f : FreqTable) (u : BitVec 9) : (s.withFreq f u).status = s.status := rfl
@[simp] theorem State.withFreq_cfgMaxInput (f : FreqTable) (u : BitVec 9) : (s.withFreq f u).cfgMaxInput = s.cfgMaxInput := rfl
@[simp] theorem State.withFreq_inLen (f : FreqTable) (u : BitVec 9) : (s.withFreq f u).inLen = s.inLen := rfl
@[simp] theorem State.withFreq_bitsLen (f : FreqTable) (u : BitVec 9) : (s.withFreq f u).bitsLen = s.bitsLen := rfl
@[simp] theorem State.withFreq_outLen (f : FreqTable) (u : BitVec 9) : (s.withFreq f u).outLen = s.outLen := rfl
@[simp] theorem State.withFreq_blobLen (f : FreqTable) (u : BitVec 9) : (s.withFreq f u).blobLen = s.blobLen := rfl
@[simp] theorem State.withFreq_root (f : FreqTable) (u : BitVec 9) : (s.withFreq f u).root = s.root := rfl
@[simp] theorem State.withFreq_unique (f : FreqTable) (u : BitVec 9) : (s.withFreq f u).unique = u := rfl
@[simp] theorem State.withFreq_origBits (f : FreqTable) (u : BitVec 9) : (s.withFreq f u).origBits = s.origBits := rfl
@[simp] theorem State.withFreq_encBits (f : FreqTable) (u : BitVec 9) : (s.withFreq f u).encBits = s.encBits := rfl
@[simp] theorem State.withFreq_ratioX100 (f : FreqTable) (u : BitVec 9) : (s.withFreq f u).ratioX100 = s.ratioX100 := rfl
@[simp] theorem State.withFreq_errSym (f : FreqTable) (u : BitVec 9) : (s.withFreq f u).errSym = s.errSym := rfl
@[simp] theorem State.withFreq_errPos (f : FreqTable) (u : BitVec 9) : (s.withFreq f u).errPos = s.errPos := rfl
@[simp] theorem State.withFreq_freq (f : FreqTable) (u : BitVec 9) : (s.withFreq f u).freq = f := rfl
@[simp] theorem State.withFreq_node (f : FreqTable) (u : BitVec 9) : (s.withFreq f u).node = s.node := rfl
@[simp] theorem State.withFreq_code (f : FreqTable) (u : BitVec 9) : (s.withFreq f u).code = s.code := rfl
@[simp] theorem State.withFreq_input (f : FreqTable) (u : BitVec 9) : (s.withFreq f u).input = s.input := rfl
@[simp] theorem State.withFreq_bits (f : FreqTable) (u : BitVec 9) : (s.withFreq f u).bits = s.bits := rfl
@[simp] theorem State.withFreq_out (f : FreqTable) (u : BitVec 9) : (s.withFreq f u).out = s.out := rfl
@[simp] theorem State.withFreq_blob (f : FreqTable) (u : BitVec 9) : (s.withFreq f u).blob = s.blob := rfl
@[simp] theorem State.withFreq_pending (f : FreqTable) (u : BitVec 9) : (s.withFreq f u).pending = s.pending := rfl
@[simp] theorem State.withFreq_response (f : FreqTable) (u : BitVec 9) : (s.withFreq f u).response = s.response := rfl
@[simp] theorem State.withFreq_draws (f : FreqTable) (u : BitVec 9) : (s.withFreq f u).draws = s.draws := rfl

@[simp] theorem State.withTree_status (N : Arena) (r : NodeIdx) : (s.withTree N r).status = s.status := rfl
@[simp] theorem State.withTree_cfgMaxInput (N : Arena) (r : NodeIdx) : (s.withTree N r).cfgMaxInput = s.cfgMaxInput := rfl
@[simp] theorem State.withTree_inLen (N : Arena) (r : NodeIdx) : (s.withTree N r).inLen = s.inLen := rfl
@[simp] theorem State.withTree_bitsLen (N : Arena) (r : NodeIdx) : (s.withTree N r).bitsLen = s.bitsLen := rfl
@[simp] theorem State.withTree_outLen (N : Arena) (r : NodeIdx) : (s.withTree N r).outLen = s.outLen := rfl
@[simp] theorem State.withTree_blobLen (N : Arena) (r : NodeIdx) : (s.withTree N r).blobLen = s.blobLen := rfl
@[simp] theorem State.withTree_root (N : Arena) (r : NodeIdx) : (s.withTree N r).root = r := rfl
@[simp] theorem State.withTree_unique (N : Arena) (r : NodeIdx) : (s.withTree N r).unique = s.unique := rfl
@[simp] theorem State.withTree_origBits (N : Arena) (r : NodeIdx) : (s.withTree N r).origBits = s.origBits := rfl
@[simp] theorem State.withTree_encBits (N : Arena) (r : NodeIdx) : (s.withTree N r).encBits = s.encBits := rfl
@[simp] theorem State.withTree_ratioX100 (N : Arena) (r : NodeIdx) : (s.withTree N r).ratioX100 = s.ratioX100 := rfl
@[simp] theorem State.withTree_errSym (N : Arena) (r : NodeIdx) : (s.withTree N r).errSym = s.errSym := rfl
@[simp] theorem State.withTree_errPos (N : Arena) (r : NodeIdx) : (s.withTree N r).errPos = s.errPos := rfl
@[simp] theorem State.withTree_freq (N : Arena) (r : NodeIdx) : (s.withTree N r).freq = s.freq := rfl
@[simp] theorem State.withTree_node (N : Arena) (r : NodeIdx) : (s.withTree N r).node = N := rfl
@[simp] theorem State.withTree_code (N : Arena) (r : NodeIdx) : (s.withTree N r).code = s.code := rfl
@[simp] theorem State.withTree_input (N : Arena) (r : NodeIdx) : (s.withTree N r).input = s.input := rfl
@[simp] theorem State.withTree_bits (N : Arena) (r : NodeIdx) : (s.withTree N r).bits = s.bits := rfl
@[simp] theorem State.withTree_out (N : Arena) (r : NodeIdx) : (s.withTree N r).out = s.out := rfl
@[simp] theorem State.withTree_blob (N : Arena) (r : NodeIdx) : (s.withTree N r).blob = s.blob := rfl
@[simp] theorem State.withTree_pending (N : Arena) (r : NodeIdx) : (s.withTree N r).pending = s.pending := rfl
@[simp] theorem State.withTree_response (N : Arena) (r : NodeIdx) : (s.withTree N r).response = s.response := rfl
@[simp] theorem State.withTree_draws (N : Arena) (r : NodeIdx) : (s.withTree N r).draws = s.draws := rfl

@[simp] theorem State.withCode_status (t : CodeTable) : (s.withCode t).status = s.status := rfl
@[simp] theorem State.withCode_cfgMaxInput (t : CodeTable) : (s.withCode t).cfgMaxInput = s.cfgMaxInput := rfl
@[simp] theorem State.withCode_inLen (t : CodeTable) : (s.withCode t).inLen = s.inLen := rfl
@[simp] theorem State.withCode_bitsLen (t : CodeTable) : (s.withCode t).bitsLen = s.bitsLen := rfl
@[simp] theorem State.withCode_outLen (t : CodeTable) : (s.withCode t).outLen = s.outLen := rfl
@[simp] theorem State.withCode_blobLen (t : CodeTable) : (s.withCode t).blobLen = s.blobLen := rfl
@[simp] theorem State.withCode_root (t : CodeTable) : (s.withCode t).root = s.root := rfl
@[simp] theorem State.withCode_unique (t : CodeTable) : (s.withCode t).unique = s.unique := rfl
@[simp] theorem State.withCode_origBits (t : CodeTable) : (s.withCode t).origBits = s.origBits := rfl
@[simp] theorem State.withCode_encBits (t : CodeTable) : (s.withCode t).encBits = s.encBits := rfl
@[simp] theorem State.withCode_ratioX100 (t : CodeTable) : (s.withCode t).ratioX100 = s.ratioX100 := rfl
@[simp] theorem State.withCode_errSym (t : CodeTable) : (s.withCode t).errSym = s.errSym := rfl
@[simp] theorem State.withCode_errPos (t : CodeTable) : (s.withCode t).errPos = s.errPos := rfl
@[simp] theorem State.withCode_freq (t : CodeTable) : (s.withCode t).freq = s.freq := rfl
@[simp] theorem State.withCode_node (t : CodeTable) : (s.withCode t).node = s.node := rfl
@[simp] theorem State.withCode_code (t : CodeTable) : (s.withCode t).code = t := rfl
@[simp] theorem State.withCode_input (t : CodeTable) : (s.withCode t).input = s.input := rfl
@[simp] theorem State.withCode_bits (t : CodeTable) : (s.withCode t).bits = s.bits := rfl
@[simp] theorem State.withCode_out (t : CodeTable) : (s.withCode t).out = s.out := rfl
@[simp] theorem State.withCode_blob (t : CodeTable) : (s.withCode t).blob = s.blob := rfl
@[simp] theorem State.withCode_pending (t : CodeTable) : (s.withCode t).pending = s.pending := rfl
@[simp] theorem State.withCode_response (t : CodeTable) : (s.withCode t).response = s.response := rfl
@[simp] theorem State.withCode_draws (t : CodeTable) : (s.withCode t).draws = s.draws := rfl

@[simp] theorem State.withBits_status (b : Bits) : (s.withBits b).status = s.status := rfl
@[simp] theorem State.withBits_cfgMaxInput (b : Bits) : (s.withBits b).cfgMaxInput = s.cfgMaxInput := rfl
@[simp] theorem State.withBits_inLen (b : Bits) : (s.withBits b).inLen = s.inLen := rfl
@[simp] theorem State.withBits_bitsLen (b : Bits) : (s.withBits b).bitsLen = BitVec.ofNat 32 b.length := rfl
@[simp] theorem State.withBits_outLen (b : Bits) : (s.withBits b).outLen = s.outLen := rfl
@[simp] theorem State.withBits_blobLen (b : Bits) : (s.withBits b).blobLen = s.blobLen := rfl
@[simp] theorem State.withBits_root (b : Bits) : (s.withBits b).root = s.root := rfl
@[simp] theorem State.withBits_unique (b : Bits) : (s.withBits b).unique = s.unique := rfl
@[simp] theorem State.withBits_origBits (b : Bits) : (s.withBits b).origBits = s.origBits := rfl
@[simp] theorem State.withBits_encBits (b : Bits) : (s.withBits b).encBits = s.encBits := rfl
@[simp] theorem State.withBits_ratioX100 (b : Bits) : (s.withBits b).ratioX100 = s.ratioX100 := rfl
@[simp] theorem State.withBits_errSym (b : Bits) : (s.withBits b).errSym = s.errSym := rfl
@[simp] theorem State.withBits_errPos (b : Bits) : (s.withBits b).errPos = s.errPos := rfl
@[simp] theorem State.withBits_freq (b : Bits) : (s.withBits b).freq = s.freq := rfl
@[simp] theorem State.withBits_node (b : Bits) : (s.withBits b).node = s.node := rfl
@[simp] theorem State.withBits_code (b : Bits) : (s.withBits b).code = s.code := rfl
@[simp] theorem State.withBits_input (b : Bits) : (s.withBits b).input = s.input := rfl
@[simp] theorem State.withBits_bits (b : Bits) : (s.withBits b).bits = Mem.replace b s.bitsLen.toNat s.bits := rfl
@[simp] theorem State.withBits_out (b : Bits) : (s.withBits b).out = s.out := rfl
@[simp] theorem State.withBits_blob (b : Bits) : (s.withBits b).blob = s.blob := rfl
@[simp] theorem State.withBits_pending (b : Bits) : (s.withBits b).pending = s.pending := rfl
@[simp] theorem State.withBits_response (b : Bits) : (s.withBits b).response = s.response := rfl
@[simp] theorem State.withBits_draws (b : Bits) : (s.withBits b).draws = s.draws := rfl

@[simp] theorem State.withOut_status (l : List Byte) : (s.withOut l).status = s.status := rfl
@[simp] theorem State.withOut_cfgMaxInput (l : List Byte) : (s.withOut l).cfgMaxInput = s.cfgMaxInput := rfl
@[simp] theorem State.withOut_inLen (l : List Byte) : (s.withOut l).inLen = s.inLen := rfl
@[simp] theorem State.withOut_bitsLen (l : List Byte) : (s.withOut l).bitsLen = s.bitsLen := rfl
@[simp] theorem State.withOut_outLen (l : List Byte) : (s.withOut l).outLen = BitVec.ofNat 32 l.length := rfl
@[simp] theorem State.withOut_blobLen (l : List Byte) : (s.withOut l).blobLen = s.blobLen := rfl
@[simp] theorem State.withOut_root (l : List Byte) : (s.withOut l).root = s.root := rfl
@[simp] theorem State.withOut_unique (l : List Byte) : (s.withOut l).unique = s.unique := rfl
@[simp] theorem State.withOut_origBits (l : List Byte) : (s.withOut l).origBits = s.origBits := rfl
@[simp] theorem State.withOut_encBits (l : List Byte) : (s.withOut l).encBits = s.encBits := rfl
@[simp] theorem State.withOut_ratioX100 (l : List Byte) : (s.withOut l).ratioX100 = s.ratioX100 := rfl
@[simp] theorem State.withOut_errSym (l : List Byte) : (s.withOut l).errSym = s.errSym := rfl
@[simp] theorem State.withOut_errPos (l : List Byte) : (s.withOut l).errPos = s.errPos := rfl
@[simp] theorem State.withOut_freq (l : List Byte) : (s.withOut l).freq = s.freq := rfl
@[simp] theorem State.withOut_node (l : List Byte) : (s.withOut l).node = s.node := rfl
@[simp] theorem State.withOut_code (l : List Byte) : (s.withOut l).code = s.code := rfl
@[simp] theorem State.withOut_input (l : List Byte) : (s.withOut l).input = s.input := rfl
@[simp] theorem State.withOut_bits (l : List Byte) : (s.withOut l).bits = s.bits := rfl
@[simp] theorem State.withOut_out (l : List Byte) : (s.withOut l).out = Mem.replace l s.outLen.toNat s.out := rfl
@[simp] theorem State.withOut_blob (l : List Byte) : (s.withOut l).blob = s.blob := rfl
@[simp] theorem State.withOut_pending (l : List Byte) : (s.withOut l).pending = s.pending := rfl
@[simp] theorem State.withOut_response (l : List Byte) : (s.withOut l).response = s.response := rfl
@[simp] theorem State.withOut_draws (l : List Byte) : (s.withOut l).draws = s.draws := rfl

@[simp] theorem State.withBlob_status (l : List Byte) : (s.withBlob l).status = s.status := rfl
@[simp] theorem State.withBlob_cfgMaxInput (l : List Byte) : (s.withBlob l).cfgMaxInput = s.cfgMaxInput := rfl
@[simp] theorem State.withBlob_inLen (l : List Byte) : (s.withBlob l).inLen = s.inLen := rfl
@[simp] theorem State.withBlob_bitsLen (l : List Byte) : (s.withBlob l).bitsLen = s.bitsLen := rfl
@[simp] theorem State.withBlob_outLen (l : List Byte) : (s.withBlob l).outLen = s.outLen := rfl
@[simp] theorem State.withBlob_blobLen (l : List Byte) : (s.withBlob l).blobLen = BitVec.ofNat 32 l.length := rfl
@[simp] theorem State.withBlob_root (l : List Byte) : (s.withBlob l).root = s.root := rfl
@[simp] theorem State.withBlob_unique (l : List Byte) : (s.withBlob l).unique = s.unique := rfl
@[simp] theorem State.withBlob_origBits (l : List Byte) : (s.withBlob l).origBits = s.origBits := rfl
@[simp] theorem State.withBlob_encBits (l : List Byte) : (s.withBlob l).encBits = s.encBits := rfl
@[simp] theorem State.withBlob_ratioX100 (l : List Byte) : (s.withBlob l).ratioX100 = s.ratioX100 := rfl
@[simp] theorem State.withBlob_errSym (l : List Byte) : (s.withBlob l).errSym = s.errSym := rfl
@[simp] theorem State.withBlob_errPos (l : List Byte) : (s.withBlob l).errPos = s.errPos := rfl
@[simp] theorem State.withBlob_freq (l : List Byte) : (s.withBlob l).freq = s.freq := rfl
@[simp] theorem State.withBlob_node (l : List Byte) : (s.withBlob l).node = s.node := rfl
@[simp] theorem State.withBlob_code (l : List Byte) : (s.withBlob l).code = s.code := rfl
@[simp] theorem State.withBlob_input (l : List Byte) : (s.withBlob l).input = s.input := rfl
@[simp] theorem State.withBlob_bits (l : List Byte) : (s.withBlob l).bits = s.bits := rfl
@[simp] theorem State.withBlob_out (l : List Byte) : (s.withBlob l).out = s.out := rfl
@[simp] theorem State.withBlob_blob (l : List Byte) : (s.withBlob l).blob = Mem.replace l s.blobLen.toNat s.blob := rfl
@[simp] theorem State.withBlob_pending (l : List Byte) : (s.withBlob l).pending = s.pending := rfl
@[simp] theorem State.withBlob_response (l : List Byte) : (s.withBlob l).response = s.response := rfl
@[simp] theorem State.withBlob_draws (l : List Byte) : (s.withBlob l).draws = s.draws := rfl

@[simp] theorem State.withStats_status (o e r : Word) : (s.withStats o e r).status = s.status := rfl
@[simp] theorem State.withStats_cfgMaxInput (o e r : Word) : (s.withStats o e r).cfgMaxInput = s.cfgMaxInput := rfl
@[simp] theorem State.withStats_inLen (o e r : Word) : (s.withStats o e r).inLen = s.inLen := rfl
@[simp] theorem State.withStats_bitsLen (o e r : Word) : (s.withStats o e r).bitsLen = s.bitsLen := rfl
@[simp] theorem State.withStats_outLen (o e r : Word) : (s.withStats o e r).outLen = s.outLen := rfl
@[simp] theorem State.withStats_blobLen (o e r : Word) : (s.withStats o e r).blobLen = s.blobLen := rfl
@[simp] theorem State.withStats_root (o e r : Word) : (s.withStats o e r).root = s.root := rfl
@[simp] theorem State.withStats_unique (o e r : Word) : (s.withStats o e r).unique = s.unique := rfl
@[simp] theorem State.withStats_origBits (o e r : Word) : (s.withStats o e r).origBits = o := rfl
@[simp] theorem State.withStats_encBits (o e r : Word) : (s.withStats o e r).encBits = e := rfl
@[simp] theorem State.withStats_ratioX100 (o e r : Word) : (s.withStats o e r).ratioX100 = r := rfl
@[simp] theorem State.withStats_errSym (o e r : Word) : (s.withStats o e r).errSym = s.errSym := rfl
@[simp] theorem State.withStats_errPos (o e r : Word) : (s.withStats o e r).errPos = s.errPos := rfl
@[simp] theorem State.withStats_freq (o e r : Word) : (s.withStats o e r).freq = s.freq := rfl
@[simp] theorem State.withStats_node (o e r : Word) : (s.withStats o e r).node = s.node := rfl
@[simp] theorem State.withStats_code (o e r : Word) : (s.withStats o e r).code = s.code := rfl
@[simp] theorem State.withStats_input (o e r : Word) : (s.withStats o e r).input = s.input := rfl
@[simp] theorem State.withStats_bits (o e r : Word) : (s.withStats o e r).bits = s.bits := rfl
@[simp] theorem State.withStats_out (o e r : Word) : (s.withStats o e r).out = s.out := rfl
@[simp] theorem State.withStats_blob (o e r : Word) : (s.withStats o e r).blob = s.blob := rfl
@[simp] theorem State.withStats_pending (o e r : Word) : (s.withStats o e r).pending = s.pending := rfl
@[simp] theorem State.withStats_response (o e r : Word) : (s.withStats o e r).response = s.response := rfl
@[simp] theorem State.withStats_draws (o e r : Word) : (s.withStats o e r).draws = s.draws := rfl

@[simp] theorem State.withErr_status (y : Byte) (p : Word) : (s.withErr y p).status = s.status := rfl
@[simp] theorem State.withErr_cfgMaxInput (y : Byte) (p : Word) : (s.withErr y p).cfgMaxInput = s.cfgMaxInput := rfl
@[simp] theorem State.withErr_inLen (y : Byte) (p : Word) : (s.withErr y p).inLen = s.inLen := rfl
@[simp] theorem State.withErr_bitsLen (y : Byte) (p : Word) : (s.withErr y p).bitsLen = s.bitsLen := rfl
@[simp] theorem State.withErr_outLen (y : Byte) (p : Word) : (s.withErr y p).outLen = s.outLen := rfl
@[simp] theorem State.withErr_blobLen (y : Byte) (p : Word) : (s.withErr y p).blobLen = s.blobLen := rfl
@[simp] theorem State.withErr_root (y : Byte) (p : Word) : (s.withErr y p).root = s.root := rfl
@[simp] theorem State.withErr_unique (y : Byte) (p : Word) : (s.withErr y p).unique = s.unique := rfl
@[simp] theorem State.withErr_origBits (y : Byte) (p : Word) : (s.withErr y p).origBits = s.origBits := rfl
@[simp] theorem State.withErr_encBits (y : Byte) (p : Word) : (s.withErr y p).encBits = s.encBits := rfl
@[simp] theorem State.withErr_ratioX100 (y : Byte) (p : Word) : (s.withErr y p).ratioX100 = s.ratioX100 := rfl
@[simp] theorem State.withErr_errSym (y : Byte) (p : Word) : (s.withErr y p).errSym = y := rfl
@[simp] theorem State.withErr_errPos (y : Byte) (p : Word) : (s.withErr y p).errPos = p := rfl
@[simp] theorem State.withErr_freq (y : Byte) (p : Word) : (s.withErr y p).freq = s.freq := rfl
@[simp] theorem State.withErr_node (y : Byte) (p : Word) : (s.withErr y p).node = s.node := rfl
@[simp] theorem State.withErr_code (y : Byte) (p : Word) : (s.withErr y p).code = s.code := rfl
@[simp] theorem State.withErr_input (y : Byte) (p : Word) : (s.withErr y p).input = s.input := rfl
@[simp] theorem State.withErr_bits (y : Byte) (p : Word) : (s.withErr y p).bits = s.bits := rfl
@[simp] theorem State.withErr_out (y : Byte) (p : Word) : (s.withErr y p).out = s.out := rfl
@[simp] theorem State.withErr_blob (y : Byte) (p : Word) : (s.withErr y p).blob = s.blob := rfl
@[simp] theorem State.withErr_pending (y : Byte) (p : Word) : (s.withErr y p).pending = s.pending := rfl
@[simp] theorem State.withErr_response (y : Byte) (p : Word) : (s.withErr y p).response = s.response := rfl
@[simp] theorem State.withErr_draws (y : Byte) (p : Word) : (s.withErr y p).draws = s.draws := rfl

@[simp] theorem State.dropBits_status : s.dropBits.status = s.status := rfl
@[simp] theorem State.dropBits_cfgMaxInput : s.dropBits.cfgMaxInput = s.cfgMaxInput := rfl
@[simp] theorem State.dropBits_inLen : s.dropBits.inLen = s.inLen := rfl
@[simp] theorem State.dropBits_bitsLen : s.dropBits.bitsLen = 0#32 := rfl
@[simp] theorem State.dropBits_outLen : s.dropBits.outLen = s.outLen := rfl
@[simp] theorem State.dropBits_blobLen : s.dropBits.blobLen = s.blobLen := rfl
@[simp] theorem State.dropBits_root : s.dropBits.root = s.root := rfl
@[simp] theorem State.dropBits_unique : s.dropBits.unique = s.unique := rfl
@[simp] theorem State.dropBits_origBits : s.dropBits.origBits = s.origBits := rfl
@[simp] theorem State.dropBits_encBits : s.dropBits.encBits = s.encBits := rfl
@[simp] theorem State.dropBits_ratioX100 : s.dropBits.ratioX100 = s.ratioX100 := rfl
@[simp] theorem State.dropBits_errSym : s.dropBits.errSym = s.errSym := rfl
@[simp] theorem State.dropBits_errPos : s.dropBits.errPos = s.errPos := rfl
@[simp] theorem State.dropBits_freq : s.dropBits.freq = s.freq := rfl
@[simp] theorem State.dropBits_node : s.dropBits.node = s.node := rfl
@[simp] theorem State.dropBits_code : s.dropBits.code = s.code := rfl
@[simp] theorem State.dropBits_input : s.dropBits.input = s.input := rfl
@[simp] theorem State.dropBits_bits : s.dropBits.bits = [] := rfl
@[simp] theorem State.dropBits_out : s.dropBits.out = s.out := rfl
@[simp] theorem State.dropBits_blob : s.dropBits.blob = s.blob := rfl
@[simp] theorem State.dropBits_pending : s.dropBits.pending = s.pending := rfl
@[simp] theorem State.dropBits_response : s.dropBits.response = s.response := rfl
@[simp] theorem State.dropBits_draws : s.dropBits.draws = s.draws := rfl

@[simp] theorem State.clearSession_status : s.clearSession.status = s.status := rfl
@[simp] theorem State.clearSession_cfgMaxInput : s.clearSession.cfgMaxInput = s.cfgMaxInput := rfl
@[simp] theorem State.clearSession_inLen : s.clearSession.inLen = 0#32 := rfl
@[simp] theorem State.clearSession_bitsLen : s.clearSession.bitsLen = 0#32 := rfl
@[simp] theorem State.clearSession_outLen : s.clearSession.outLen = 0#32 := rfl
@[simp] theorem State.clearSession_blobLen : s.clearSession.blobLen = 0#32 := rfl
@[simp] theorem State.clearSession_root : s.clearSession.root = NIL := rfl
@[simp] theorem State.clearSession_unique : s.clearSession.unique = 0#9 := rfl
@[simp] theorem State.clearSession_origBits : s.clearSession.origBits = 0#32 := rfl
@[simp] theorem State.clearSession_encBits : s.clearSession.encBits = 0#32 := rfl
@[simp] theorem State.clearSession_ratioX100 : s.clearSession.ratioX100 = 0#32 := rfl
@[simp] theorem State.clearSession_errSym : s.clearSession.errSym = 0#8 := rfl
@[simp] theorem State.clearSession_errPos : s.clearSession.errPos = 0#32 := rfl
@[simp] theorem State.clearSession_freq : s.clearSession.freq = Vector.replicate 256 0#32 := rfl
@[simp] theorem State.clearSession_node : s.clearSession.node = Vector.replicate 511 .free := rfl
@[simp] theorem State.clearSession_code : s.clearSession.code = Vector.replicate 256 none := rfl
@[simp] theorem State.clearSession_input : s.clearSession.input = s.input := rfl
@[simp] theorem State.clearSession_bits : s.clearSession.bits = s.bits := rfl
@[simp] theorem State.clearSession_out : s.clearSession.out = s.out := rfl
@[simp] theorem State.clearSession_blob : s.clearSession.blob = s.blob := rfl
@[simp] theorem State.clearSession_pending : s.clearSession.pending = s.pending := rfl
@[simp] theorem State.clearSession_response : s.clearSession.response = s.response := rfl
@[simp] theorem State.clearSession_draws : s.clearSession.draws = s.draws := rfl

@[simp] theorem State.setCfg_status (v : Word) : (s.setCfg v).status = s.status := rfl
@[simp] theorem State.setCfg_cfgMaxInput (v : Word) : (s.setCfg v).cfgMaxInput = v := rfl
@[simp] theorem State.setCfg_inLen (v : Word) : (s.setCfg v).inLen = s.inLen := rfl
@[simp] theorem State.setCfg_bitsLen (v : Word) : (s.setCfg v).bitsLen = s.bitsLen := rfl
@[simp] theorem State.setCfg_outLen (v : Word) : (s.setCfg v).outLen = s.outLen := rfl
@[simp] theorem State.setCfg_blobLen (v : Word) : (s.setCfg v).blobLen = s.blobLen := rfl
@[simp] theorem State.setCfg_root (v : Word) : (s.setCfg v).root = s.root := rfl
@[simp] theorem State.setCfg_unique (v : Word) : (s.setCfg v).unique = s.unique := rfl
@[simp] theorem State.setCfg_origBits (v : Word) : (s.setCfg v).origBits = s.origBits := rfl
@[simp] theorem State.setCfg_encBits (v : Word) : (s.setCfg v).encBits = s.encBits := rfl
@[simp] theorem State.setCfg_ratioX100 (v : Word) : (s.setCfg v).ratioX100 = s.ratioX100 := rfl
@[simp] theorem State.setCfg_errSym (v : Word) : (s.setCfg v).errSym = s.errSym := rfl
@[simp] theorem State.setCfg_errPos (v : Word) : (s.setCfg v).errPos = s.errPos := rfl
@[simp] theorem State.setCfg_freq (v : Word) : (s.setCfg v).freq = s.freq := rfl
@[simp] theorem State.setCfg_node (v : Word) : (s.setCfg v).node = s.node := rfl
@[simp] theorem State.setCfg_code (v : Word) : (s.setCfg v).code = s.code := rfl
@[simp] theorem State.setCfg_input (v : Word) : (s.setCfg v).input = s.input := rfl
@[simp] theorem State.setCfg_bits (v : Word) : (s.setCfg v).bits = s.bits := rfl
@[simp] theorem State.setCfg_out (v : Word) : (s.setCfg v).out = s.out := rfl
@[simp] theorem State.setCfg_blob (v : Word) : (s.setCfg v).blob = s.blob := rfl
@[simp] theorem State.setCfg_pending (v : Word) : (s.setCfg v).pending = s.pending := rfl
@[simp] theorem State.setCfg_response (v : Word) : (s.setCfg v).response = s.response := rfl
@[simp] theorem State.setCfg_draws (v : Word) : (s.setCfg v).draws = s.draws := rfl

@[simp] theorem State.setInLen_status (v : Word) : (s.setInLen v).status = s.status := rfl
@[simp] theorem State.setInLen_cfgMaxInput (v : Word) : (s.setInLen v).cfgMaxInput = s.cfgMaxInput := rfl
@[simp] theorem State.setInLen_inLen (v : Word) : (s.setInLen v).inLen = v := rfl
@[simp] theorem State.setInLen_bitsLen (v : Word) : (s.setInLen v).bitsLen = s.bitsLen := rfl
@[simp] theorem State.setInLen_outLen (v : Word) : (s.setInLen v).outLen = s.outLen := rfl
@[simp] theorem State.setInLen_blobLen (v : Word) : (s.setInLen v).blobLen = s.blobLen := rfl
@[simp] theorem State.setInLen_root (v : Word) : (s.setInLen v).root = s.root := rfl
@[simp] theorem State.setInLen_unique (v : Word) : (s.setInLen v).unique = s.unique := rfl
@[simp] theorem State.setInLen_origBits (v : Word) : (s.setInLen v).origBits = s.origBits := rfl
@[simp] theorem State.setInLen_encBits (v : Word) : (s.setInLen v).encBits = s.encBits := rfl
@[simp] theorem State.setInLen_ratioX100 (v : Word) : (s.setInLen v).ratioX100 = s.ratioX100 := rfl
@[simp] theorem State.setInLen_errSym (v : Word) : (s.setInLen v).errSym = s.errSym := rfl
@[simp] theorem State.setInLen_errPos (v : Word) : (s.setInLen v).errPos = s.errPos := rfl
@[simp] theorem State.setInLen_freq (v : Word) : (s.setInLen v).freq = s.freq := rfl
@[simp] theorem State.setInLen_node (v : Word) : (s.setInLen v).node = s.node := rfl
@[simp] theorem State.setInLen_code (v : Word) : (s.setInLen v).code = s.code := rfl
@[simp] theorem State.setInLen_input (v : Word) : (s.setInLen v).input = s.input := rfl
@[simp] theorem State.setInLen_bits (v : Word) : (s.setInLen v).bits = s.bits := rfl
@[simp] theorem State.setInLen_out (v : Word) : (s.setInLen v).out = s.out := rfl
@[simp] theorem State.setInLen_blob (v : Word) : (s.setInLen v).blob = s.blob := rfl
@[simp] theorem State.setInLen_pending (v : Word) : (s.setInLen v).pending = s.pending := rfl
@[simp] theorem State.setInLen_response (v : Word) : (s.setInLen v).response = s.response := rfl
@[simp] theorem State.setInLen_draws (v : Word) : (s.setInLen v).draws = s.draws := rfl

@[simp] theorem State.setBitsLen_status (v : Word) : (s.setBitsLen v).status = s.status := rfl
@[simp] theorem State.setBitsLen_cfgMaxInput (v : Word) : (s.setBitsLen v).cfgMaxInput = s.cfgMaxInput := rfl
@[simp] theorem State.setBitsLen_inLen (v : Word) : (s.setBitsLen v).inLen = s.inLen := rfl
@[simp] theorem State.setBitsLen_bitsLen (v : Word) : (s.setBitsLen v).bitsLen = v := rfl
@[simp] theorem State.setBitsLen_outLen (v : Word) : (s.setBitsLen v).outLen = s.outLen := rfl
@[simp] theorem State.setBitsLen_blobLen (v : Word) : (s.setBitsLen v).blobLen = s.blobLen := rfl
@[simp] theorem State.setBitsLen_root (v : Word) : (s.setBitsLen v).root = s.root := rfl
@[simp] theorem State.setBitsLen_unique (v : Word) : (s.setBitsLen v).unique = s.unique := rfl
@[simp] theorem State.setBitsLen_origBits (v : Word) : (s.setBitsLen v).origBits = s.origBits := rfl
@[simp] theorem State.setBitsLen_encBits (v : Word) : (s.setBitsLen v).encBits = s.encBits := rfl
@[simp] theorem State.setBitsLen_ratioX100 (v : Word) : (s.setBitsLen v).ratioX100 = s.ratioX100 := rfl
@[simp] theorem State.setBitsLen_errSym (v : Word) : (s.setBitsLen v).errSym = s.errSym := rfl
@[simp] theorem State.setBitsLen_errPos (v : Word) : (s.setBitsLen v).errPos = s.errPos := rfl
@[simp] theorem State.setBitsLen_freq (v : Word) : (s.setBitsLen v).freq = s.freq := rfl
@[simp] theorem State.setBitsLen_node (v : Word) : (s.setBitsLen v).node = s.node := rfl
@[simp] theorem State.setBitsLen_code (v : Word) : (s.setBitsLen v).code = s.code := rfl
@[simp] theorem State.setBitsLen_input (v : Word) : (s.setBitsLen v).input = s.input := rfl
@[simp] theorem State.setBitsLen_bits (v : Word) : (s.setBitsLen v).bits = s.bits := rfl
@[simp] theorem State.setBitsLen_out (v : Word) : (s.setBitsLen v).out = s.out := rfl
@[simp] theorem State.setBitsLen_blob (v : Word) : (s.setBitsLen v).blob = s.blob := rfl
@[simp] theorem State.setBitsLen_pending (v : Word) : (s.setBitsLen v).pending = s.pending := rfl
@[simp] theorem State.setBitsLen_response (v : Word) : (s.setBitsLen v).response = s.response := rfl
@[simp] theorem State.setBitsLen_draws (v : Word) : (s.setBitsLen v).draws = s.draws := rfl

@[simp] theorem State.setBlobLen_status (v : Word) : (s.setBlobLen v).status = s.status := rfl
@[simp] theorem State.setBlobLen_cfgMaxInput (v : Word) : (s.setBlobLen v).cfgMaxInput = s.cfgMaxInput := rfl
@[simp] theorem State.setBlobLen_inLen (v : Word) : (s.setBlobLen v).inLen = s.inLen := rfl
@[simp] theorem State.setBlobLen_bitsLen (v : Word) : (s.setBlobLen v).bitsLen = s.bitsLen := rfl
@[simp] theorem State.setBlobLen_outLen (v : Word) : (s.setBlobLen v).outLen = s.outLen := rfl
@[simp] theorem State.setBlobLen_blobLen (v : Word) : (s.setBlobLen v).blobLen = v := rfl
@[simp] theorem State.setBlobLen_root (v : Word) : (s.setBlobLen v).root = s.root := rfl
@[simp] theorem State.setBlobLen_unique (v : Word) : (s.setBlobLen v).unique = s.unique := rfl
@[simp] theorem State.setBlobLen_origBits (v : Word) : (s.setBlobLen v).origBits = s.origBits := rfl
@[simp] theorem State.setBlobLen_encBits (v : Word) : (s.setBlobLen v).encBits = s.encBits := rfl
@[simp] theorem State.setBlobLen_ratioX100 (v : Word) : (s.setBlobLen v).ratioX100 = s.ratioX100 := rfl
@[simp] theorem State.setBlobLen_errSym (v : Word) : (s.setBlobLen v).errSym = s.errSym := rfl
@[simp] theorem State.setBlobLen_errPos (v : Word) : (s.setBlobLen v).errPos = s.errPos := rfl
@[simp] theorem State.setBlobLen_freq (v : Word) : (s.setBlobLen v).freq = s.freq := rfl
@[simp] theorem State.setBlobLen_node (v : Word) : (s.setBlobLen v).node = s.node := rfl
@[simp] theorem State.setBlobLen_code (v : Word) : (s.setBlobLen v).code = s.code := rfl
@[simp] theorem State.setBlobLen_input (v : Word) : (s.setBlobLen v).input = s.input := rfl
@[simp] theorem State.setBlobLen_bits (v : Word) : (s.setBlobLen v).bits = s.bits := rfl
@[simp] theorem State.setBlobLen_out (v : Word) : (s.setBlobLen v).out = s.out := rfl
@[simp] theorem State.setBlobLen_blob (v : Word) : (s.setBlobLen v).blob = s.blob := rfl
@[simp] theorem State.setBlobLen_pending (v : Word) : (s.setBlobLen v).pending = s.pending := rfl
@[simp] theorem State.setBlobLen_response (v : Word) : (s.setBlobLen v).response = s.response := rfl
@[simp] theorem State.setBlobLen_draws (v : Word) : (s.setBlobLen v).draws = s.draws := rfl

@[simp] theorem State.setInput_status (m : List Host.Cell) : (s.setInput m).status = s.status := rfl
@[simp] theorem State.setInput_cfgMaxInput (m : List Host.Cell) : (s.setInput m).cfgMaxInput = s.cfgMaxInput := rfl
@[simp] theorem State.setInput_inLen (m : List Host.Cell) : (s.setInput m).inLen = s.inLen := rfl
@[simp] theorem State.setInput_bitsLen (m : List Host.Cell) : (s.setInput m).bitsLen = s.bitsLen := rfl
@[simp] theorem State.setInput_outLen (m : List Host.Cell) : (s.setInput m).outLen = s.outLen := rfl
@[simp] theorem State.setInput_blobLen (m : List Host.Cell) : (s.setInput m).blobLen = s.blobLen := rfl
@[simp] theorem State.setInput_root (m : List Host.Cell) : (s.setInput m).root = s.root := rfl
@[simp] theorem State.setInput_unique (m : List Host.Cell) : (s.setInput m).unique = s.unique := rfl
@[simp] theorem State.setInput_origBits (m : List Host.Cell) : (s.setInput m).origBits = s.origBits := rfl
@[simp] theorem State.setInput_encBits (m : List Host.Cell) : (s.setInput m).encBits = s.encBits := rfl
@[simp] theorem State.setInput_ratioX100 (m : List Host.Cell) : (s.setInput m).ratioX100 = s.ratioX100 := rfl
@[simp] theorem State.setInput_errSym (m : List Host.Cell) : (s.setInput m).errSym = s.errSym := rfl
@[simp] theorem State.setInput_errPos (m : List Host.Cell) : (s.setInput m).errPos = s.errPos := rfl
@[simp] theorem State.setInput_freq (m : List Host.Cell) : (s.setInput m).freq = s.freq := rfl
@[simp] theorem State.setInput_node (m : List Host.Cell) : (s.setInput m).node = s.node := rfl
@[simp] theorem State.setInput_code (m : List Host.Cell) : (s.setInput m).code = s.code := rfl
@[simp] theorem State.setInput_input (m : List Host.Cell) : (s.setInput m).input = m := rfl
@[simp] theorem State.setInput_bits (m : List Host.Cell) : (s.setInput m).bits = s.bits := rfl
@[simp] theorem State.setInput_out (m : List Host.Cell) : (s.setInput m).out = s.out := rfl
@[simp] theorem State.setInput_blob (m : List Host.Cell) : (s.setInput m).blob = s.blob := rfl
@[simp] theorem State.setInput_pending (m : List Host.Cell) : (s.setInput m).pending = s.pending := rfl
@[simp] theorem State.setInput_response (m : List Host.Cell) : (s.setInput m).response = s.response := rfl
@[simp] theorem State.setInput_draws (m : List Host.Cell) : (s.setInput m).draws = s.draws := rfl

@[simp] theorem State.setBits_status (m : List (Nat × Bool)) : (s.setBits m).status = s.status := rfl
@[simp] theorem State.setBits_cfgMaxInput (m : List (Nat × Bool)) : (s.setBits m).cfgMaxInput = s.cfgMaxInput := rfl
@[simp] theorem State.setBits_inLen (m : List (Nat × Bool)) : (s.setBits m).inLen = s.inLen := rfl
@[simp] theorem State.setBits_bitsLen (m : List (Nat × Bool)) : (s.setBits m).bitsLen = s.bitsLen := rfl
@[simp] theorem State.setBits_outLen (m : List (Nat × Bool)) : (s.setBits m).outLen = s.outLen := rfl
@[simp] theorem State.setBits_blobLen (m : List (Nat × Bool)) : (s.setBits m).blobLen = s.blobLen := rfl
@[simp] theorem State.setBits_root (m : List (Nat × Bool)) : (s.setBits m).root = s.root := rfl
@[simp] theorem State.setBits_unique (m : List (Nat × Bool)) : (s.setBits m).unique = s.unique := rfl
@[simp] theorem State.setBits_origBits (m : List (Nat × Bool)) : (s.setBits m).origBits = s.origBits := rfl
@[simp] theorem State.setBits_encBits (m : List (Nat × Bool)) : (s.setBits m).encBits = s.encBits := rfl
@[simp] theorem State.setBits_ratioX100 (m : List (Nat × Bool)) : (s.setBits m).ratioX100 = s.ratioX100 := rfl
@[simp] theorem State.setBits_errSym (m : List (Nat × Bool)) : (s.setBits m).errSym = s.errSym := rfl
@[simp] theorem State.setBits_errPos (m : List (Nat × Bool)) : (s.setBits m).errPos = s.errPos := rfl
@[simp] theorem State.setBits_freq (m : List (Nat × Bool)) : (s.setBits m).freq = s.freq := rfl
@[simp] theorem State.setBits_node (m : List (Nat × Bool)) : (s.setBits m).node = s.node := rfl
@[simp] theorem State.setBits_code (m : List (Nat × Bool)) : (s.setBits m).code = s.code := rfl
@[simp] theorem State.setBits_input (m : List (Nat × Bool)) : (s.setBits m).input = s.input := rfl
@[simp] theorem State.setBits_bits (m : List (Nat × Bool)) : (s.setBits m).bits = m := rfl
@[simp] theorem State.setBits_out (m : List (Nat × Bool)) : (s.setBits m).out = s.out := rfl
@[simp] theorem State.setBits_blob (m : List (Nat × Bool)) : (s.setBits m).blob = s.blob := rfl
@[simp] theorem State.setBits_pending (m : List (Nat × Bool)) : (s.setBits m).pending = s.pending := rfl
@[simp] theorem State.setBits_response (m : List (Nat × Bool)) : (s.setBits m).response = s.response := rfl
@[simp] theorem State.setBits_draws (m : List (Nat × Bool)) : (s.setBits m).draws = s.draws := rfl

@[simp] theorem State.setBlob_status (m : List Host.Cell) : (s.setBlob m).status = s.status := rfl
@[simp] theorem State.setBlob_cfgMaxInput (m : List Host.Cell) : (s.setBlob m).cfgMaxInput = s.cfgMaxInput := rfl
@[simp] theorem State.setBlob_inLen (m : List Host.Cell) : (s.setBlob m).inLen = s.inLen := rfl
@[simp] theorem State.setBlob_bitsLen (m : List Host.Cell) : (s.setBlob m).bitsLen = s.bitsLen := rfl
@[simp] theorem State.setBlob_outLen (m : List Host.Cell) : (s.setBlob m).outLen = s.outLen := rfl
@[simp] theorem State.setBlob_blobLen (m : List Host.Cell) : (s.setBlob m).blobLen = s.blobLen := rfl
@[simp] theorem State.setBlob_root (m : List Host.Cell) : (s.setBlob m).root = s.root := rfl
@[simp] theorem State.setBlob_unique (m : List Host.Cell) : (s.setBlob m).unique = s.unique := rfl
@[simp] theorem State.setBlob_origBits (m : List Host.Cell) : (s.setBlob m).origBits = s.origBits := rfl
@[simp] theorem State.setBlob_encBits (m : List Host.Cell) : (s.setBlob m).encBits = s.encBits := rfl
@[simp] theorem State.setBlob_ratioX100 (m : List Host.Cell) : (s.setBlob m).ratioX100 = s.ratioX100 := rfl
@[simp] theorem State.setBlob_errSym (m : List Host.Cell) : (s.setBlob m).errSym = s.errSym := rfl
@[simp] theorem State.setBlob_errPos (m : List Host.Cell) : (s.setBlob m).errPos = s.errPos := rfl
@[simp] theorem State.setBlob_freq (m : List Host.Cell) : (s.setBlob m).freq = s.freq := rfl
@[simp] theorem State.setBlob_node (m : List Host.Cell) : (s.setBlob m).node = s.node := rfl
@[simp] theorem State.setBlob_code (m : List Host.Cell) : (s.setBlob m).code = s.code := rfl
@[simp] theorem State.setBlob_input (m : List Host.Cell) : (s.setBlob m).input = s.input := rfl
@[simp] theorem State.setBlob_bits (m : List Host.Cell) : (s.setBlob m).bits = s.bits := rfl
@[simp] theorem State.setBlob_out (m : List Host.Cell) : (s.setBlob m).out = s.out := rfl
@[simp] theorem State.setBlob_blob (m : List Host.Cell) : (s.setBlob m).blob = m := rfl
@[simp] theorem State.setBlob_pending (m : List Host.Cell) : (s.setBlob m).pending = s.pending := rfl
@[simp] theorem State.setBlob_response (m : List Host.Cell) : (s.setBlob m).response = s.response := rfl
@[simp] theorem State.setBlob_draws (m : List Host.Cell) : (s.setBlob m).draws = s.draws := rfl

@[simp] theorem State.respond_status (e : Elem) : (s.respond e).status = s.status := rfl
@[simp] theorem State.respond_cfgMaxInput (e : Elem) : (s.respond e).cfgMaxInput = s.cfgMaxInput := rfl
@[simp] theorem State.respond_inLen (e : Elem) : (s.respond e).inLen = s.inLen := rfl
@[simp] theorem State.respond_bitsLen (e : Elem) : (s.respond e).bitsLen = s.bitsLen := rfl
@[simp] theorem State.respond_outLen (e : Elem) : (s.respond e).outLen = s.outLen := rfl
@[simp] theorem State.respond_blobLen (e : Elem) : (s.respond e).blobLen = s.blobLen := rfl
@[simp] theorem State.respond_root (e : Elem) : (s.respond e).root = s.root := rfl
@[simp] theorem State.respond_unique (e : Elem) : (s.respond e).unique = s.unique := rfl
@[simp] theorem State.respond_origBits (e : Elem) : (s.respond e).origBits = s.origBits := rfl
@[simp] theorem State.respond_encBits (e : Elem) : (s.respond e).encBits = s.encBits := rfl
@[simp] theorem State.respond_ratioX100 (e : Elem) : (s.respond e).ratioX100 = s.ratioX100 := rfl
@[simp] theorem State.respond_errSym (e : Elem) : (s.respond e).errSym = s.errSym := rfl
@[simp] theorem State.respond_errPos (e : Elem) : (s.respond e).errPos = s.errPos := rfl
@[simp] theorem State.respond_freq (e : Elem) : (s.respond e).freq = s.freq := rfl
@[simp] theorem State.respond_node (e : Elem) : (s.respond e).node = s.node := rfl
@[simp] theorem State.respond_code (e : Elem) : (s.respond e).code = s.code := rfl
@[simp] theorem State.respond_input (e : Elem) : (s.respond e).input = s.input := rfl
@[simp] theorem State.respond_bits (e : Elem) : (s.respond e).bits = s.bits := rfl
@[simp] theorem State.respond_out (e : Elem) : (s.respond e).out = s.out := rfl
@[simp] theorem State.respond_blob (e : Elem) : (s.respond e).blob = s.blob := rfl
@[simp] theorem State.respond_pending (e : Elem) : (s.respond e).pending = s.pending := rfl
@[simp] theorem State.respond_response (e : Elem) : (s.respond e).response = some e := rfl
@[simp] theorem State.respond_draws (e : Elem) : (s.respond e).draws = s.draws := rfl

@[simp] theorem State.accept_status (rest : List HostOp) : (s.accept rest).status = s.status := rfl
@[simp] theorem State.accept_cfgMaxInput (rest : List HostOp) : (s.accept rest).cfgMaxInput = s.cfgMaxInput := rfl
@[simp] theorem State.accept_inLen (rest : List HostOp) : (s.accept rest).inLen = s.inLen := rfl
@[simp] theorem State.accept_bitsLen (rest : List HostOp) : (s.accept rest).bitsLen = s.bitsLen := rfl
@[simp] theorem State.accept_outLen (rest : List HostOp) : (s.accept rest).outLen = s.outLen := rfl
@[simp] theorem State.accept_blobLen (rest : List HostOp) : (s.accept rest).blobLen = s.blobLen := rfl
@[simp] theorem State.accept_root (rest : List HostOp) : (s.accept rest).root = s.root := rfl
@[simp] theorem State.accept_unique (rest : List HostOp) : (s.accept rest).unique = s.unique := rfl
@[simp] theorem State.accept_origBits (rest : List HostOp) : (s.accept rest).origBits = s.origBits := rfl
@[simp] theorem State.accept_encBits (rest : List HostOp) : (s.accept rest).encBits = s.encBits := rfl
@[simp] theorem State.accept_ratioX100 (rest : List HostOp) : (s.accept rest).ratioX100 = s.ratioX100 := rfl
@[simp] theorem State.accept_errSym (rest : List HostOp) : (s.accept rest).errSym = s.errSym := rfl
@[simp] theorem State.accept_errPos (rest : List HostOp) : (s.accept rest).errPos = s.errPos := rfl
@[simp] theorem State.accept_freq (rest : List HostOp) : (s.accept rest).freq = s.freq := rfl
@[simp] theorem State.accept_node (rest : List HostOp) : (s.accept rest).node = s.node := rfl
@[simp] theorem State.accept_code (rest : List HostOp) : (s.accept rest).code = s.code := rfl
@[simp] theorem State.accept_input (rest : List HostOp) : (s.accept rest).input = s.input := rfl
@[simp] theorem State.accept_bits (rest : List HostOp) : (s.accept rest).bits = s.bits := rfl
@[simp] theorem State.accept_out (rest : List HostOp) : (s.accept rest).out = s.out := rfl
@[simp] theorem State.accept_blob (rest : List HostOp) : (s.accept rest).blob = s.blob := rfl
@[simp] theorem State.accept_pending (rest : List HostOp) : (s.accept rest).pending = rest := rfl
@[simp] theorem State.accept_response (rest : List HostOp) : (s.accept rest).response = none := rfl
@[simp] theorem State.accept_draws (rest : List HostOp) : (s.accept rest).draws = s.draws + 1 := rfl

/-! A conditional flag touches STATUS alone. -/

@[simp] theorem State.flagIf_true (f : BitVec 8) : s.flagIf true f = s.flag f := rfl
@[simp] theorem State.flagIf_false (f : BitVec 8) : s.flagIf false f = s := rfl
@[simp] theorem State.flagIf_status (c : Bool) (f : BitVec 8) :
    (s.flagIf c f).status = if c then s.status ||| f else s.status := by cases c <;> rfl
@[simp] theorem State.flagIf_cfgMaxInput (c : Bool) (f : BitVec 8) : (s.flagIf c f).cfgMaxInput = s.cfgMaxInput := by cases c <;> rfl
@[simp] theorem State.flagIf_inLen (c : Bool) (f : BitVec 8) : (s.flagIf c f).inLen = s.inLen := by cases c <;> rfl
@[simp] theorem State.flagIf_bitsLen (c : Bool) (f : BitVec 8) : (s.flagIf c f).bitsLen = s.bitsLen := by cases c <;> rfl
@[simp] theorem State.flagIf_outLen (c : Bool) (f : BitVec 8) : (s.flagIf c f).outLen = s.outLen := by cases c <;> rfl
@[simp] theorem State.flagIf_blobLen (c : Bool) (f : BitVec 8) : (s.flagIf c f).blobLen = s.blobLen := by cases c <;> rfl
@[simp] theorem State.flagIf_root (c : Bool) (f : BitVec 8) : (s.flagIf c f).root = s.root := by cases c <;> rfl
@[simp] theorem State.flagIf_unique (c : Bool) (f : BitVec 8) : (s.flagIf c f).unique = s.unique := by cases c <;> rfl
@[simp] theorem State.flagIf_origBits (c : Bool) (f : BitVec 8) : (s.flagIf c f).origBits = s.origBits := by cases c <;> rfl
@[simp] theorem State.flagIf_encBits (c : Bool) (f : BitVec 8) : (s.flagIf c f).encBits = s.encBits := by cases c <;> rfl
@[simp] theorem State.flagIf_ratioX100 (c : Bool) (f : BitVec 8) : (s.flagIf c f).ratioX100 = s.ratioX100 := by cases c <;> rfl
@[simp] theorem State.flagIf_errSym (c : Bool) (f : BitVec 8) : (s.flagIf c f).errSym = s.errSym := by cases c <;> rfl
@[simp] theorem State.flagIf_errPos (c : Bool) (f : BitVec 8) : (s.flagIf c f).errPos = s.errPos := by cases c <;> rfl
@[simp] theorem State.flagIf_freq (c : Bool) (f : BitVec 8) : (s.flagIf c f).freq = s.freq := by cases c <;> rfl
@[simp] theorem State.flagIf_node (c : Bool) (f : BitVec 8) : (s.flagIf c f).node = s.node := by cases c <;> rfl
@[simp] theorem State.flagIf_code (c : Bool) (f : BitVec 8) : (s.flagIf c f).code = s.code := by cases c <;> rfl
@[simp] theorem State.flagIf_input (c : Bool) (f : BitVec 8) : (s.flagIf c f).input = s.input := by cases c <;> rfl
@[simp] theorem State.flagIf_bits (c : Bool) (f : BitVec 8) : (s.flagIf c f).bits = s.bits := by cases c <;> rfl
@[simp] theorem State.flagIf_out (c : Bool) (f : BitVec 8) : (s.flagIf c f).out = s.out := by cases c <;> rfl
@[simp] theorem State.flagIf_blob (c : Bool) (f : BitVec 8) : (s.flagIf c f).blob = s.blob := by cases c <;> rfl
@[simp] theorem State.flagIf_pending (c : Bool) (f : BitVec 8) : (s.flagIf c f).pending = s.pending := by cases c <;> rfl
@[simp] theorem State.flagIf_response (c : Bool) (f : BitVec 8) : (s.flagIf c f).response = s.response := by cases c <;> rfl
@[simp] theorem State.flagIf_draws (c : Bool) (f : BitVec 8) : (s.flagIf c f).draws = s.draws := by cases c <;> rfl

end Sys2Proof.Machine
end

