-- ==== Sys2Proof/Laws/Ops.lean ====
section
/-! SUPPORT. What each shared operation can do, said once. -/

namespace Sys2Proof.Machine

/-- Raising a condition always ends in a next state. -/
theorem raise_eq_next (f : BitVec 8) (s : State) : raise f s = .next (s.flag f) := rfl

/-- The capacity check raises CAPACITY or lets the command run. -/
theorem bounded_cases (len : Nat) (body : State → Result) (s : State) :
    (s.cfgMaxInput.toNat < len ∧ bounded len body s = .next (s.flag CAPACITY)) ∨
      (len ≤ s.cfgMaxInput.toNat ∧ bounded len body s = body s) := by
  unfold bounded
  split
  · exact .inl ⟨‹_›, rfl⟩
  · exact .inr ⟨by omega, rfl⟩

theorem bounded_of_le {len : Nat} {s : State} (body : State → Result) (h : len ≤ s.cfgMaxInput.toNat) :
    bounded len body s = body s := by unfold bounded; rw [if_neg (by omega)]

theorem bounded_of_lt {len : Nat} {s : State} (body : State → Result) (h : s.cfgMaxInput.toNat < len) :
    bounded len body s = .next (s.flag CAPACITY) := by unfold bounded; rw [if_pos h]; rfl

/-- A write that fits goes on; one that does not is refused. -/
theorem fitting_of_le {sp : Space} {cap len : Nat} (r : Result) (h : len ≤ cap) : fitting sp cap len r = r := by
  unfold fitting; rw [if_neg (by omega)]

theorem fitting_of_lt {sp : Space} {cap len : Nat} (r : Result) (h : cap < len) :
    fitting sp cap len r = .refused (.bufferOverflow sp) := by unfold fitting; rw [if_pos h]

/-- If a write answers a next state, it fitted. -/
theorem fitting_next {sp : Space} {cap len : Nat} {r : Result} {t : State} (h : fitting sp cap len r = .next t) :
    len ≤ cap ∧ r = .next t := by
  unfold fitting at h
  split at h
  · cases h
  · exact ⟨by omega, h⟩

/-- A stage after a state with a fatal flag is not run. -/
theorem andThen_fatal {s : State} (stage : State → Result) (h : s.fatal = true) : andThen (.next s) stage = .next s := by
  simp [andThen, h]

/-- A stage after a state without a fatal flag is run on it. -/
theorem andThen_next {s : State} (stage : State → Result) (h : s.fatal = false) : andThen (.next s) stage = stage s := by
  simp [andThen, h]

/-- If a sequence of two stages answers a next state, the first did, and it either ended the compound or the second ran. -/
theorem andThen_eq_next {r : Result} {stage : State → Result} {t : State} (h : andThen r stage = .next t) :
    ∃ s, r = .next s ∧ ((s.fatal = true ∧ t = s) ∨ (s.fatal = false ∧ stage s = .next t)) := by
  cases r with
  | next s =>
    refine ⟨s, rfl, ?_⟩
    cases hs : s.fatal
    · exact .inr ⟨rfl, by rwa [andThen_next stage hs] at h⟩
    · rw [andThen_fatal stage hs] at h
      injection h with h
      exact .inl ⟨rfl, h.symm⟩
  | fault f => cases h
  | refused f => cases h

/-- A command clears STATUS and runs its body. -/
theorem command_eq (body : State → Result) (s : State) : command body s = body s.clearStatus := rfl

end Sys2Proof.Machine
end

