-- ==== Sys2Proof/Laws/Commands.lean ====
section
/-! SUPPORT. What each command and each stage can do, said once: the provers cite these and unfold no meaning. -/

namespace Sys2Proof.Machine

@[simp] theorem exec_sreset (s : State) : exec .sreset s = sresetBody s.clearStatus := rfl
@[simp] theorem exec_count (s : State) : exec .count s = countBody s.clearStatus := rfl
@[simp] theorem exec_build (s : State) : exec .build s = buildBody s.clearStatus := rfl
@[simp] theorem exec_walk (s : State) : exec .walk s = walkBody s.clearStatus := rfl
@[simp] theorem exec_emit (s : State) : exec .emit s = emitBody params s.clearStatus := rfl
@[simp] theorem exec_dect (s : State) : exec .dect s = dectBody params s.clearStatus := rfl
@[simp] theorem exec_decr (s : State) : exec .decr s = decrBody params s.clearStatus := rfl
@[simp] theorem exec_export (s : State) : exec .exportContainer s = exportBody params s.clearStatus := rfl
@[simp] theorem exec_import (s : State) : exec .importContainer s = importBody params s.clearStatus := rfl
@[simp] theorem exec_encode (s : State) : exec .encode s = encodeBody params s.clearStatus := rfl
@[simp] theorem exec_unpack (s : State) : exec .unpack s = unpackBody params s.clearStatus := rfl

/-- COUNT raises CAPACITY, or writes FREQ, UNIQUE and EMPTY. -/
theorem countBody_cases (s : State) :
    (s.cfgMaxInput.toNat < s.inSize ∧ countBody s = .next (s.flag CAPACITY)) ∨
      (s.inSize ≤ s.cfgMaxInput.toNat ∧ countBody s =
        .next ((s.withFreq (count s.inputBytes) (BitVec.ofNat 9 (present (count s.inputBytes)))).flagIf
          (s.inLen == 0#32) EMPTY)) := bounded_cases _ _ s

/-- BUILD always writes NODE, ROOT and EMPTY. -/
theorem buildBody_eq (s : State) : buildBody s =
    .next ((s.withTree (buildTree s.freq).1 (buildTree s.freq).2).flagIf (s.freq.toList.all (· == 0#32)) EMPTY) := rfl

/-- WALK always writes CODE and EMPTY. -/
theorem walkBody_eq (s : State) : walkBody s =
    .next ((s.withCode (walkTable s.node s.root)).flagIf (s.root == NIL) EMPTY) := rfl

/-- EMIT raises CAPACITY, is refused for want of room, raises UNKNOWN_SYMBOL, or writes the payload and the statistics. -/
theorem emitBody_cases (P : Params) (s : State) :
    (s.cfgMaxInput.toNat < s.inSize ∧ emitBody P s = .next (s.flag CAPACITY)) ∨
      (s.inSize ≤ s.cfgMaxInput.toNat ∧ P.bitsCap < (emit s.code s.inputBytes).bits.length ∧
        emitBody P s = .refused (.bufferOverflow .bits)) ∨
      (s.inSize ≤ s.cfgMaxInput.toNat ∧ (emit s.code s.inputBytes).bits.length ≤ P.bitsCap ∧
        ∃ sym pos, (emit s.code s.inputBytes).unknown = some (sym, pos) ∧
          emitBody P s = .next ((s.dropBits.withErr sym (BitVec.ofNat 32 pos)).flag UNKNOWN_SYMBOL)) ∨
      (s.inSize ≤ s.cfgMaxInput.toNat ∧ (emit s.code s.inputBytes).bits.length ≤ P.bitsCap ∧
        (emit s.code s.inputBytes).unknown = none ∧
        emitBody P s = .next (((s.withBits (emit s.code s.inputBytes).bits).withStats
          (BitVec.ofNat 32 (8 * s.inLen.toNat)) (BitVec.ofNat 32 (emit s.code s.inputBytes).bits.length)
          (BitVec.ofInt 32 (ratioOf (8 * s.inLen.toNat) (emit s.code s.inputBytes).bits.length))).flagIf
          (s.inLen == 0#32) EMPTY)) := by
  unfold emitBody
  rcases bounded_cases s.inSize _ s with ⟨h, e⟩ | ⟨h, e⟩
  · exact .inl ⟨h, e⟩
  · refine .inr ?_
    rw [e]
    dsimp only
    by_cases hb : P.bitsCap < (emit s.code s.inputBytes).bits.length
    · exact .inl ⟨h, hb, fitting_of_lt _ hb⟩
    · refine .inr ?_
      rw [fitting_of_le _ (by omega)]
      cases hu : (emit s.code s.inputBytes).unknown with
      | none => exact .inr ⟨h, by omega, rfl, rfl⟩
      | some u => exact .inl ⟨h, by omega, u.1, u.2, rfl, rfl⟩

/-- What a decode command does with its bytes: refused for want of room, or OUT, OUT_LEN, EMPTY. -/
theorem emitDecoded_cases (P : Params) (l : List Byte) (s : State) :
    (P.outCap < l.length ∧ emitDecoded P l s = .refused (.bufferOverflow .out)) ∨
      (l.length ≤ P.outCap ∧ emitDecoded P l s = .next ((s.withOut l).flagIf (s.bitsLen == 0#32) EMPTY)) := by
  unfold emitDecoded
  by_cases h : P.outCap < l.length
  · exact .inl ⟨h, fitting_of_lt _ h⟩
  · exact .inr ⟨by omega, fitting_of_le _ (by omega)⟩

/-- DECT raises CAPACITY or decodes with CODE. -/
theorem dectBody_cases (P : Params) (s : State) :
    (s.cfgMaxInput.toNat < s.bitsSize ∧ dectBody P s = .next (s.flag CAPACITY)) ∨
      (s.bitsSize ≤ s.cfgMaxInput.toNat ∧ dectBody P s = emitDecoded P (dect s.code s.payload) s) := bounded_cases _ _ s

/-- DECR raises CAPACITY or decodes with NODE and ROOT. -/
theorem decrBody_cases (P : Params) (s : State) :
    (s.cfgMaxInput.toNat < s.bitsSize ∧ decrBody P s = .next (s.flag CAPACITY)) ∨
      (s.bitsSize ≤ s.cfgMaxInput.toNat ∧ decrBody P s = emitDecoded P (decr s.node s.root s.payload) s) :=
  bounded_cases _ _ s

/-- EXPORT raises CAPACITY, is refused for want of room, or writes the container. -/
theorem exportBody_cases (P : Params) (s : State) :
    (s.cfgMaxInput.toNat < s.bitsSize ∧ exportBody P s = .next (s.flag CAPACITY)) ∨
      (s.bitsSize ≤ s.cfgMaxInput.toNat ∧ P.blobCap < (container P s.code s.payload).length ∧
        exportBody P s = .refused (.bufferOverflow .blob)) ∨
      (s.bitsSize ≤ s.cfgMaxInput.toNat ∧ (container P s.code s.payload).length ≤ P.blobCap ∧
        exportBody P s = .next ((s.withBlob (container P s.code s.payload)).flagIf (s.bitsLen == 0#32) EMPTY)) := by
  unfold exportBody
  rcases bounded_cases s.bitsSize _ s with ⟨h, e⟩ | ⟨h, e⟩
  · exact .inl ⟨h, e⟩
  · refine .inr ?_
    rw [e]
    by_cases hb : P.blobCap < (container P s.code s.payload).length
    · exact .inl ⟨h, hb, fitting_of_lt _ hb⟩
    · exact .inr ⟨h, by omega, fitting_of_le _ (by omega)⟩

/-- The table and the bits IMPORT ends with, and whether it fell back. -/
def imported (P : Params) (s : State) : CodeTable × Bits × Bool :=
  match parseContainer P s.blobBytes with
  | some (t, b) => (t, b, false)
  | none => (emptyTable, unpack s.blobBytes, true)

/-- IMPORT raises CAPACITY, is refused for want of room, or writes CODE, BITS and its flags. -/
theorem importBody_cases (P : Params) (s : State) :
    (s.cfgMaxInput.toNat < s.blobSize ∧ importBody P s = .next (s.flag CAPACITY)) ∨
      (s.blobSize ≤ s.cfgMaxInput.toNat ∧ P.bitsCap < (imported P s).2.1.length ∧
        importBody P s = .refused (.bufferOverflow .bits)) ∨
      (s.blobSize ≤ s.cfgMaxInput.toNat ∧ (imported P s).2.1.length ≤ P.bitsCap ∧
        importBody P s = .next ((((s.withCode (imported P s).1).withBits (imported P s).2.1).flagIf
          (imported P s).2.2 DEGRADED).flagIf (s.blobLen == 0#32) EMPTY)) := by
  unfold importBody imported
  rcases bounded_cases s.blobSize _ s with ⟨h, e⟩ | ⟨h, e⟩
  · exact .inl ⟨h, e⟩
  · refine .inr ?_
    rw [e]
    cases hp : parseContainer P s.blobBytes with
    | none =>
      dsimp only
      by_cases hb : P.bitsCap < (unpack s.blobBytes).length
      · exact .inl ⟨h, hb, fitting_of_lt _ hb⟩
      · exact .inr ⟨h, by omega, fitting_of_le _ (by omega)⟩
    | some q =>
      dsimp only
      by_cases hb : P.bitsCap < q.2.length
      · exact .inl ⟨h, hb, fitting_of_lt _ hb⟩
      · exact .inr ⟨h, by omega, fitting_of_le _ (by omega)⟩

/-- ENCODE raises CAPACITY or runs its four stages. -/
theorem encodeBody_cases (P : Params) (s : State) :
    (s.cfgMaxInput.toNat < s.inSize ∧ encodeBody P s = .next (s.flag CAPACITY)) ∨
      (s.inSize ≤ s.cfgMaxInput.toNat ∧ encodeBody P s =
        andThen (andThen (andThen (countBody s) buildBody) walkBody) (emitBody P)) := bounded_cases _ _ s

/-- UNPACK raises CAPACITY or runs its two stages. -/
theorem unpackBody_cases (P : Params) (s : State) :
    (s.cfgMaxInput.toNat < s.blobSize ∧ unpackBody P s = .next (s.flag CAPACITY)) ∨
      (s.blobSize ≤ s.cfgMaxInput.toNat ∧ unpackBody P s = andThen (importBody P s) (dectBody P)) := bounded_cases _ _ s

/-- The operands a stage reads are those of the state without its STATUS. -/
@[simp] theorem clearStatus_inputBytes (s : State) : s.clearStatus.inputBytes = s.inputBytes := rfl
@[simp] theorem clearStatus_payload (s : State) : s.clearStatus.payload = s.payload := rfl
@[simp] theorem clearStatus_blobBytes (s : State) : s.clearStatus.blobBytes = s.blobBytes := rfl
@[simp] theorem clearStatus_inSize (s : State) : s.clearStatus.inSize = s.inLen.toNat := rfl
@[simp] theorem clearStatus_bitsSize (s : State) : s.clearStatus.bitsSize = ceil8 s.bitsLen.toNat := rfl
@[simp] theorem clearStatus_blobSize (s : State) : s.clearStatus.blobSize = s.blobLen.toNat := rfl

@[simp] theorem length_inputBytes (s : State) : s.inputBytes.length = s.inLen.toNat := Mem.length_read _ _ _
@[simp] theorem length_payload (s : State) : s.payload.length = s.bitsLen.toNat := Mem.length_read _ _ _
@[simp] theorem length_outBytes (s : State) : s.outBytes.length = s.outLen.toNat := Mem.length_read _ _ _
@[simp] theorem length_blobBytes (s : State) : s.blobBytes.length = s.blobLen.toNat := Mem.length_read _ _ _

/-- The payload a command wrote is what the next command reads, whatever the free values are. -/
theorem withBits_payload (s : State) (b : Bits) (h : b.length < 2 ^ 32) : (s.withBits b).payload = b := by
  unfold State.payload
  have hl : (s.withBits b).bitsLen.toNat = b.length := by simpa using h
  rw [hl]
  apply Mem.read_eq
  intro i hi
  rw [State.withBits_bits, Mem.lookup_replace, if_pos hi, List.getElem?_eq_getElem hi]

/-- The bytes a decode wrote are what the host reads back. -/
theorem withOut_outBytes (s : State) (l : List Byte) (h : l.length < 2 ^ 32) : (s.withOut l).outBytes = l := by
  unfold State.outBytes
  have hl : (s.withOut l).outLen.toNat = l.length := by simpa using h
  rw [hl]
  apply Mem.read_eq
  intro i hi
  rw [State.withOut_out, Mem.lookup_replace, if_pos hi, List.getElem?_eq_getElem hi]

/-- The blob EXPORT wrote is what IMPORT reads. -/
theorem withBlob_blobBytes (s : State) (l : List Byte) (h : l.length < 2 ^ 32) : (s.withBlob l).blobBytes = l := by
  unfold State.blobBytes
  have hl : (s.withBlob l).blobLen.toNat = l.length := by simpa using h
  rw [hl]
  apply Mem.read_eq
  intro i hi
  rw [State.withBlob_blob, Mem.lookup_replace, if_pos hi, List.getElem?_eq_getElem hi]

/-- What the commands of an instance are. -/
@[simp] theorem execAt_sreset (P : Params) (s : State) : execAt P .sreset s = sresetBody s.clearStatus := rfl
@[simp] theorem execAt_count (P : Params) (s : State) : execAt P .count s = countBody s.clearStatus := rfl
@[simp] theorem execAt_build (P : Params) (s : State) : execAt P .build s = buildBody s.clearStatus := rfl
@[simp] theorem execAt_walk (P : Params) (s : State) : execAt P .walk s = walkBody s.clearStatus := rfl
@[simp] theorem execAt_emit (P : Params) (s : State) : execAt P .emit s = emitBody P s.clearStatus := rfl
@[simp] theorem execAt_dect (P : Params) (s : State) : execAt P .dect s = dectBody P s.clearStatus := rfl
@[simp] theorem execAt_decr (P : Params) (s : State) : execAt P .decr s = decrBody P s.clearStatus := rfl
@[simp] theorem execAt_export (P : Params) (s : State) : execAt P .exportContainer s = exportBody P s.clearStatus := rfl
@[simp] theorem execAt_import (P : Params) (s : State) : execAt P .importContainer s = importBody P s.clearStatus := rfl
@[simp] theorem execAt_encode (P : Params) (s : State) : execAt P .encode s = encodeBody P s.clearStatus := rfl
@[simp] theorem execAt_unpack (P : Params) (s : State) : execAt P .unpack s = unpackBody P s.clearStatus := rfl

/-- One step, whatever runs the commands: idle, an issued command, an illegal word, or another host operation. -/
theorem stepWith_cases (run : Instr → State → Result) (P : Params) (s : State) :
    (s.pending = [] ∧ stepWith run P s = .next s) ∨
      ∃ op rest, s.pending = op :: rest ∧
        ((∃ c i, commandWord op = some c ∧ decode c = .ok i ∧ stepWith run P s = run i (s.accept rest)) ∨
          (∃ c e, commandWord op = some c ∧ decode c = .error e ∧ stepWith run P s = illegalCommand (s.accept rest)) ∨
          (commandWord op = none ∧ stepWith run P s = access P op (s.accept rest))) := by
  unfold stepWith
  cases hp : s.pending with
  | nil => exact .inl ⟨rfl, rfl⟩
  | cons op rest =>
    refine .inr ⟨op, rest, rfl, ?_⟩
    dsimp only
    cases hc : commandWord op with
    | none => exact .inr (.inr ⟨rfl, rfl⟩)
    | some c =>
      dsimp only [issueWith]
      cases hd : decode c with
      | ok i => exact .inl ⟨c, i, rfl, hd, rfl⟩
      | error e => exact .inr (.inl ⟨c, e, rfl, hd, rfl⟩)

/-- One step of the instance `P`. -/
theorem stepAt_cases (P : Params) (s : State) :
    (s.pending = [] ∧ stepAt P s = .next s) ∨
      ∃ op rest, s.pending = op :: rest ∧
        ((∃ c i, commandWord op = some c ∧ decode c = .ok i ∧ stepAt P s = execAt P i (s.accept rest)) ∨
          (∃ c e, commandWord op = some c ∧ decode c = .error e ∧ stepAt P s = illegalCommand (s.accept rest)) ∨
          (commandWord op = none ∧ stepAt P s = access P op (s.accept rest))) := stepWith_cases (execAt P) P s

/-- One step. -/
theorem step_cases (s : State) :
    (s.pending = [] ∧ step s = .next s) ∨
      ∃ op rest, s.pending = op :: rest ∧
        ((∃ c i, commandWord op = some c ∧ decode c = .ok i ∧ step s = exec i (s.accept rest)) ∨
          (∃ c e, commandWord op = some c ∧ decode c = .error e ∧ step s = illegalCommand (s.accept rest)) ∨
          (commandWord op = none ∧ step s = access params op (s.accept rest))) := stepWith_cases exec params s

/-- The word an operation issues. -/
theorem commandWord_of_issues {op : HostOp} {c : BitVec 8} (h : Issues op c) : commandWord op = some c := by
  rcases h with rfl | ⟨v, rfl, rfl⟩ <;> rfl

end Sys2Proof.Machine
end

