-- ==== Sys2Proof/Laws/PerInstr.lean ====
section
/-! SUPPORT. What holds of every command as syntax, one lemma per constructor. -/

namespace Sys2Proof.Laws.EncodeRoundTrip

/-- The command is well formed and its word decodes to it (30_encoding.md R91). -/
def Statement (i : Instr) : Prop := i.wf = true ∧ decode (encode i) = .ok i

theorem sreset : Statement .sreset := ⟨rfl, by decide⟩
theorem count : Statement .count := ⟨rfl, by decide⟩
theorem build : Statement .build := ⟨rfl, by decide⟩
theorem walk : Statement .walk := ⟨rfl, by decide⟩
theorem emit : Statement .emit := ⟨rfl, by decide⟩
theorem dect : Statement .dect := ⟨rfl, by decide⟩
theorem decr : Statement .decr := ⟨rfl, by decide⟩
theorem exportContainer : Statement .exportContainer := ⟨rfl, by decide⟩
theorem importContainer : Statement .importContainer := ⟨rfl, by decide⟩
theorem encode : Statement .encode := ⟨rfl, by decide⟩
theorem unpack : Statement .unpack := ⟨rfl, by decide⟩

end Sys2Proof.Laws.EncodeRoundTrip
end

