-- ==== Sys2Proof/Laws/Table.lean ====
section
/-! SUPPORT. The laws of the per-symbol tables and of the arena. -/

namespace Sys2Proof

/-- Reading an entry after an entry was replaced. -/
theorem Table.at_put {α : Type} (t : Table α) (a b : Byte) (v : α) : (t.put a v).at b = if a = b then v else t.at b := by
  unfold Table.at Table.put
  rw [Vector.getElem_set]
  simp only [BitVec.toNat_inj]

@[simp] theorem Table.at_put_self {α : Type} (t : Table α) (b : Byte) (v : α) : (t.put b v).at b = v := by
  rw [Table.at_put, if_pos rfl]

theorem Table.at_put_ne {α : Type} (t : Table α) {a b : Byte} (v : α) (h : a ≠ b) : (t.put a v).at b = t.at b := by
  rw [Table.at_put, if_neg h]

@[simp] theorem Table.at_replicate {α : Type} (v : α) (b : Byte) : Table.at (Vector.replicate 256 v) b = v := by
  simp [Table.at]

/-- Two tables with the same entries are equal. -/
theorem Table.ext_at {α : Type} {t u : Table α} (h : ∀ b, t.at b = u.at b) : t = u := by
  apply Vector.ext
  intro i hi
  have := h (BitVec.ofNat 8 i)
  simp only [Table.at, BitVec.toNat_ofNat] at this
  have hm : i % 2 ^ 8 = i := Nat.mod_eq_of_lt hi
  simpa only [hm] using this

namespace Machine

@[simp] theorem nodeAt_free (i : NodeIdx) : nodeAt (Vector.replicate 511 Node.free) i = .free := by
  unfold nodeAt
  by_cases h : i.toNat < 511 <;> simp [h]

/-- There is no entry at NIL. -/
@[simp] theorem nodeAt_nil (N : Arena) : nodeAt N NIL = .free := by
  unfold nodeAt NIL
  simp

/-- Reading an entry after an entry was written. -/
theorem nodeAt_putNode (N : Arena) (i : Nat) (n : Node) (j : NodeIdx) :
    nodeAt (putNode N i n) j = if i = j.toNat ∧ i < 511 then n else nodeAt N j := by
  unfold nodeAt putNode
  by_cases h : j.toNat < 511
  · simp only [h, Vector.getElem?_eq_getElem, Option.getD_some, Vector.getElem_setIfInBounds]
    by_cases hij : i = j.toNat <;> simp [hij, h]
  · have h1 : ∀ M : Arena, M[j.toNat]? = none := fun M => Vector.getElem?_eq_none (by omega)
    rw [h1, h1, if_neg (by omega)]

end Machine
end Sys2Proof
end

