-- ==== Sys2Proof/Tests/Slice0.lean ====
section
/-! SUPPORT. Tests: the opcode words, the ill-formed terms, the spec's own vectors (95_test_vectors.md), and, for every statement
with hypotheses, a witness that meets them. Expected values are the spec's; each test names its source. -/

namespace Sys2Proof.Tests

open Sys2Proof.Machine

set_option Elab.async false

/-! ### Decoding: the words of 30_encoding.md R91, `zero` above `op` -/

theorem test_decode_sreset : decode 0b00000001#8 = .ok .sreset := by decide +kernel
theorem test_decode_count : decode 0b00000010#8 = .ok .count := by decide +kernel
theorem test_decode_build : decode 0b00000011#8 = .ok .build := by decide +kernel
theorem test_decode_walk : decode 0b00000100#8 = .ok .walk := by decide +kernel
theorem test_decode_emit : decode 0b00000101#8 = .ok .emit := by decide +kernel
theorem test_decode_dect : decode 0b00000110#8 = .ok .dect := by decide +kernel
theorem test_decode_decr : decode 0b00000111#8 = .ok .decr := by decide +kernel
theorem test_decode_export : decode 0b00001000#8 = .ok .exportContainer := by decide +kernel
theorem test_decode_import : decode 0b00001001#8 = .ok .importContainer := by decide +kernel
theorem test_decode_encode : decode 0b00001010#8 = .ok .encode := by decide +kernel
theorem test_decode_unpack : decode 0b00001011#8 = .ok .unpack := by decide +kernel
/-- R93: 0x00, 0x0C and 0x10 are illegal, each by name. -/
theorem test_decode_reserved : decode 0x00#8 = .error (.reservedOp 0#4) ∧ decode 0x0C#8 = .error (.reservedOp 12#4) ∧
    decode 0x12#8 = .error (.nonZeroField 1#4) := by decide +kernel

/-! ### Well-formedness: an ill-formed term for each check -/

theorem test_wf_code : Code.wf [] = false ∧ Code.wf (List.replicate 256 true) = false ∧
    Code.wf (List.replicate 255 true) = true ∧ Code.wf [false] = true := by decide +kernel
theorem test_wf_entry : Code.entryWf (some []) = false ∧ Code.entryWf none = true := by decide +kernel
theorem test_wf_table : CodeTable.wf (emptyTable.put 0xFF#8 (some [])) = false ∧ CodeTable.wf emptyTable = true := by
  decide +kernel
theorem test_wf_hostOp : HostOp.wf (.bufWrite 4 0 (.record (List.replicate 32 0#8))) = false ∧
    HostOp.wf (.bufWrite 1 0 (.word32 0#32)) = false ∧ HostOp.wf (.bufWrite 2 0 (.byte 0#8)) = false ∧
    HostOp.wf (.bufWrite 4 0 (.record (List.replicate 33 0#8))) = true := by decide +kernel

/-! ### Small states -/

/-- LOADIN x (30_encoding.md R102). -/
def loaded (x : List Byte) : State := { State.reset with input := Mem.cells 0 x, inLen := BitVec.ofNat 32 x.length }

/-- LOADBITS b. -/
def loadBits (b : Bits) (s : State) : State := { s with bits := Mem.cells 0 b, bitsLen := BitVec.ofNat 32 b.length }

/-- LOADBLOB l. -/
def loadBlob (l : List Byte) (s : State) : State := { s with blob := Mem.cells 0 l, blobLen := BitVec.ofNat 32 l.length }

/-- The state one command leaves. -/
def after (i : Instr) (s : State) : State :=
  match exec i s with
  | .next t => t
  | .fault _ => s
  | .refused _ => s

/-- The state one host operation leaves. -/
def afterOp (op : HostOp) (s : State) : State :=
  match step { s with pending := [op] } with
  | .next t => t
  | .fault _ => s
  | .refused _ => s

/-- The bits of a numeral of n digits, first digit first. -/
def bitString (n v : Nat) : Bits := (List.range n).map fun i => v.testBit (n - 1 - i)

/-- "ABBCCC" -/
def abc : List Byte := [0x41#8, 0x42#8, 0x42#8, 0x43#8, 0x43#8, 0x43#8]

/-- "aaaa" -/
def aaaa : List Byte := [0x61#8, 0x61#8, 0x61#8, 0x61#8]

/-- {A:"10", B:"11", C:"0"} -/
def abcTable : CodeTable :=
  ((emptyTable.put 0x41#8 (some [true, false])).put 0x42#8 (some [true, true])).put 0x43#8 (some [false])

/-- The tree of "ABBCCC" (VB4). -/
def abcTree : Arena := putNode (putNode (putNode (putNode (putNode (Vector.replicate 511 .free) 0x41 (.leaf 0x41#8 1#32)) 0x42
  (.leaf 0x42#8 2#32)) 0x43 (.leaf 0x43#8 3#32)) 256 (.internal 3#32 0x41#9 0x42#9)) 257 (.internal 6#32 0x43#9 256#9)

/-- The tree of "aaaa" (VB2). -/
def oneTree : Arena := putNode (putNode (Vector.replicate 511 .free) 0x61 (.leaf 0x61#8 4#32)) 256 (.internal 4#32 0x61#9 NIL)

/-- The tree of "AB" (VB3). -/
def twoTree : Arena := putNode (putNode (putNode (Vector.replicate 511 .free) 0x41 (.leaf 0x41#8 1#32)) 0x42
  (.leaf 0x42#8 1#32)) 256 (.internal 2#32 0x41#9 0x42#9)

/-- The 22-byte container of S6. -/
def abcBlob : List Byte := [0x48#8, 0x55#8, 0x46#8, 0x46#8, 0x0C#8, 0x00#8, 0x00#8, 0x00#8, 0x01#8, 0x03#8, 0x00#8, 0x41#8,
  0x02#8, 0x80#8, 0x42#8, 0x02#8, 0xC0#8, 0x43#8, 0x01#8, 0x00#8, 0xBC#8, 0x00#8]

/-! ### The spec's vectors, one or two a command -/

/-- VC3, VC8, VC9 -/
theorem test_count : (after .count (loaded abc)).freq.at 0x41#8 = 1#32 ∧ (after .count (loaded abc)).freq.at 0x43#8 = 3#32 ∧
    (after .count (loaded abc)).unique = 3#9 ∧ (after .count (loaded abc)).status = 0#8 := by decide +kernel
theorem test_count_capacity : (after .count { loaded abc with cfgMaxInput := 5#32 }).status = 0x08#8 ∧
    (after .count { loaded abc with cfgMaxInput := 5#32 }).unique = 0#9 ∧
    (after .count { loaded abc with cfgMaxInput := 6#32 }).status = 0x00#8 := by decide +kernel
/-- VB4 -/
theorem test_build : let b := buildTree (count abc)
    (nodeAt b.1 256#9, nodeAt b.1 257#9, b.2) =
      (.internal 3#32 0x41#9 0x42#9, .internal 6#32 0x43#9 256#9, 257#9) := by decide +kernel
/-- VB8: "aabbc", order by weight first -/
theorem test_build_weight_first :
    nodeAt (buildTree (count [0x61#8, 0x61#8, 0x62#8, 0x62#8, 0x63#8])).1 256#9 = .internal 3#32 0x63#9 0x61#9 := by
  decide +kernel
/-- VB4, VB2 after VB4: WALK clears every entry first -/
theorem test_walk : let t := walkTable abcTree 257#9
    (t.at 0x41#8, t.at 0x42#8, t.at 0x43#8, t.at 0x44#8) =
      (some [true, false], some [true, true], some [false], none) := by decide +kernel
theorem test_walk_clears : let t := after .walk { State.reset with node := oneTree, root := 256#9, code := abcTable }
    (t.code.at 0x41#8, t.code.at 0x61#8, t.status) = (none, some [false], 0#8) := by decide +kernel
/-- VE2 (the floor of 7916.67), VE6 (the least ratio) -/
theorem test_emit : (after .emit { loaded [0x43#8, 0x41#8, 0x42#8] with code := abcTable }).payload = bitString 5 0b01011 ∧
    (after .emit { loaded [0x43#8, 0x41#8, 0x42#8] with code := abcTable }).ratioX100 = 7916#32 ∧
    (after .emit { loaded [0x41#8] with
      code := emptyTable.put 0x41#8 (some (List.replicate 255 true)) }).ratioX100 = 0xFFFB49F2#32 := by decide +kernel
/-- VE3: "ABXCY" -/
theorem test_emit_unknown :
    let t := after .emit { loaded [0x41#8, 0x42#8, 0x58#8, 0x43#8, 0x59#8] with code := abcTable, ratioX100 := 7916#32 }
    t.status = 0x04#8 ∧ t.bitsLen = 0#32 ∧ t.errSym = 0x58#8 ∧ t.errPos = 2#32 ∧ t.ratioX100 = 7916#32 := by decide +kernel
/-- VD2 -/
theorem test_dect : (after .dect { loadBits (bitString 10 0b1011110001) State.reset with code := abcTable }).outBytes = abc := by
  decide +kernel
/-- VD12: no resynchronisation; R203: the least of two equal codes -/
theorem test_dect_foreign : dect (emptyTable.put 0x61#8 (some [false])) (bitString 5 0b10000) = [] ∧
    dect ((emptyTable.put 0x42#8 (some [true])).put 0x41#8 (some [true])) [true] = [0x41#8] := by decide +kernel
/-- VD12, VD6 -/
theorem test_decr : decr oneTree 256#9 (bitString 5 0b10000) = aaaa := by decide +kernel
theorem test_decr_pad : (decr abcTree 257#9 (bitString 16 0b1011110000000000)).length = 13 := by decide +kernel
/-- S6, R240 (the 11-byte blob) -/
theorem test_export : (after .exportContainer { loadBits (bitString 9 0b101111000) State.reset with code := abcTable }).blobBytes =
    abcBlob := by decide +kernel
theorem test_export_empty : (after .exportContainer State.reset).blobBytes =
    [0x48#8, 0x55#8, 0x46#8, 0x46#8, 3#8, 0#8, 0#8, 0#8, 1#8, 0#8, 0#8] := by decide +kernel
/-- S6, R246 -/
theorem test_import : let t := after .importContainer (loadBlob abcBlob State.reset)
    (t.code.at 0x41#8, t.code.at 0x43#8, t.payload, t.status) =
      (some [true, false], some [false], bitString 16 0b1011110000000000, 0#8) := by decide +kernel
theorem test_import_degrades : let t := after .importContainer { loadBlob (abcBlob.take 19) State.reset with code := abcTable }
    (t.code.at 0x41#8, t.bitsLen, t.status) = (none, 152#32, 0x02#8) := by decide +kernel
/-- S2, S1 -/
theorem test_encode : let t := after .encode (loaded abc)
    (t.payload, t.encBits, t.ratioX100, t.root, t.code.at 0x41#8) =
      (bitString 9 0b101111000, 9#32, 8125#32, 257#9, some [true, false]) := by decide +kernel
theorem test_encode_one_symbol : let t := after .encode (loaded aaaa)
    (t.payload, t.unique, t.ratioX100) = (bitString 4 0, 1#9, 8750#32) := by decide +kernel
/-- R266: the container of "aaaa", and a zero-length blob -/
theorem test_unpack : (after .unpack (loadBlob [0x48#8, 0x55#8, 0x46#8, 0x46#8, 6#8, 0#8, 0#8, 0#8, 1#8, 1#8, 0#8, 0x61#8, 1#8,
    0#8, 0#8] State.reset)).outBytes = aaaa ++ aaaa := by decide +kernel
theorem test_unpack_empty : (after .unpack State.reset).status = 0x03#8 := by decide +kernel
/-- R260 -/
theorem test_sreset : let t := after .sreset { loaded abc with node := abcTree, root := 257#9, freq := count abc, bitsLen := 9#32 }
    t.root = 511#9 ∧ t.bitsLen = 0#32 ∧ t.freq.at 0x43#8 = 0#32 ∧ t.cfgMaxInput = 65536#32 := by decide +kernel

/-- VH4, VH11, VH9, R32 -/
theorem test_regWrite_clamps : (afterOp (.regWrite 2 0xFFFFFFFF#32) State.reset).cfgMaxInput = 268435455#32 := by decide +kernel
theorem test_code_record : bufRead params 4 0x41 (afterOp (.bufWrite 4 0x41 (.record (0x02#8 :: 0xFF#8 :: List.replicate 31 0x00#8)))
    State.reset) = .record (0x02#8 :: 0xC0#8 :: List.replicate 31 0x00#8) := by decide +kernel
theorem test_bits_view : (afterOp (.bufRead 5 0) (loadBits (bitString 9 0b101111000) State.reset)).response = some (.byte 0xBC#8) := by
  decide +kernel
theorem test_node_word : (nodeAt abcTree 257#9).pack = 0x0802004300000006#64 := by decide +kernel
/-- R207, R250: the named states and phases -/
theorem test_fsm_names : ([false, true].foldl (TableFsm.step abcTable) TableFsm.start).state = .accumulate ∧
    TableFsm.start.state = .atRoot ∧ CodecPhase.at 12 3 = .magic ∧ CodecPhase.at 12 7 = .length ∧
    CodecPhase.at 12 19 = .table ∧ CodecPhase.at 12 20 = .payload := by decide +kernel
/-- The first step after reset runs the placed word. -/
theorem test_withFetchWord : step (State.reset.withFetchWord 8 10) = exec .encode (State.reset.accept []) := rfl

/-! ## Witnesses: what meets the hypotheses of the statements -/

/-! ### The trees of "aaaa" and of "AB" are well formed -/

theorem toNat_eq_iff (n : Nat) (h : n < 512) (i : NodeIdx) : n = i.toNat ↔ i = BitVec.ofNat 9 n := by
  constructor
  · rintro rfl; simp
  · rintro rfl; simp; omega

theorem oneTree_at (i : NodeIdx) : nodeAt oneTree i =
    if i = 256#9 then .internal 4#32 0x61#9 NIL else if i = 0x61#9 then .leaf 0x61#8 4#32 else .free := by
  simp only [oneTree, nodeAt_putNode, nodeAt_free, toNat_eq_iff 256 (by decide), toNat_eq_iff 0x61 (by decide)]
  simp

theorem twoTree_at (i : NodeIdx) : nodeAt twoTree i =
    if i = 256#9 then .internal 2#32 0x41#9 0x42#9 else if i = 0x42#9 then .leaf 0x42#8 1#32
    else if i = 0x41#9 then .leaf 0x41#8 1#32 else .free := by
  simp only [twoTree, nodeAt_putNode, nodeAt_free, toNat_eq_iff 256 (by decide), toNat_eq_iff 0x41 (by decide),
    toNat_eq_iff 0x42 (by decide)]
  simp

/-- From a leaf only the leaf itself is reached. -/
theorem reaches_leaf {N : Arena} {i j : NodeIdx} {s : Byte} {w : Word} {p : Bits} (h : nodeAt N i = .leaf s w) :
    Reaches N i p j ↔ p = [] ∧ j = i := by
  constructor
  · intro r
    cases r with
    | here => exact ⟨rfl, rfl⟩
    | left h' => rw [h] at h'; cases h'
    | right h' => rw [h] at h'; cases h'
  · rintro ⟨rfl, rfl⟩; exact .here _

theorem oneTree_reaches (p : Bits) (j : NodeIdx) :
    Reaches oneTree 256#9 p j ↔ (p = [] ∧ j = 256#9) ∨ (p = [false] ∧ j = 0x61#9) := by
  have h0 : nodeAt oneTree 256#9 = .internal 4#32 0x61#9 NIL := by rw [oneTree_at]; rfl
  have h1 : nodeAt oneTree 0x61#9 = .leaf 0x61#8 4#32 := by rw [oneTree_at]; rfl
  constructor
  · intro r
    cases r with
    | here => exact .inl ⟨rfl, rfl⟩
    | left h hl t =>
      rw [h0] at h; cases h
      obtain ⟨rfl, rfl⟩ := (reaches_leaf h1).1 t
      exact .inr ⟨rfl, rfl⟩
    | right h hr t => rw [h0] at h; cases h; exact absurd rfl hr
  · rintro (⟨rfl, rfl⟩ | ⟨rfl, rfl⟩)
    · exact .here _
    · exact .left h0 (by decide) (.here _)

theorem twoTree_reaches (p : Bits) (j : NodeIdx) :
    Reaches twoTree 256#9 p j ↔ (p = [] ∧ j = 256#9) ∨ (p = [false] ∧ j = 0x41#9) ∨ (p = [true] ∧ j = 0x42#9) := by
  have h0 : nodeAt twoTree 256#9 = .internal 2#32 0x41#9 0x42#9 := by rw [twoTree_at]; rfl
  have h1 : nodeAt twoTree 0x41#9 = .leaf 0x41#8 1#32 := by rw [twoTree_at]; rfl
  have h2 : nodeAt twoTree 0x42#9 = .leaf 0x42#8 1#32 := by rw [twoTree_at]; rfl
  constructor
  · intro r
    cases r with
    | here => exact .inl ⟨rfl, rfl⟩
    | left h hl t =>
      rw [h0] at h; cases h
      obtain ⟨rfl, rfl⟩ := (reaches_leaf h1).1 t
      exact .inr (.inl ⟨rfl, rfl⟩)
    | right h hr t =>
      rw [h0] at h; cases h
      obtain ⟨rfl, rfl⟩ := (reaches_leaf h2).1 t
      exact .inr (.inr ⟨rfl, rfl⟩)
  · rintro (⟨rfl, rfl⟩ | ⟨rfl, rfl⟩ | ⟨rfl, rfl⟩)
    · exact .here _
    · exact .left h0 (by decide) (.here _)
    · exact .right h0 (by decide) (.here _)

/-- What of TreeWf can be said entry by entry, with `n` leaves. -/
def LocalWf (N : Arena) (n : Nat) (i : NodeIdx) : Prop :=
  match nodeAt N i with
  | .free => True
  | .leaf s w => i = s.setWidth 9 ∧ w ≠ 0#32
  | .internal w l r => 256 ≤ i.toNat ∧ l ≠ NIL ∧ (r = NIL → i = 256#9 ∧ n = 1) ∧
      w = (nodeAt N l).weight + (nodeAt N r).weight ∧ l.toNat < i.toNat ∧ (r ≠ NIL → r.toNat < i.toNat)

theorem treeWf_of {N : Arena} {root : NodeIdx} (hl : ∀ i, LocalWf N (leaves N) i) (hr : root ≠ NIL)
    (hi : ∃ w l r, nodeAt N root = .internal w l r) (hn : ∀ p j, Reaches N root p j → nodeAt N j ≠ .free)
    (ho : ∀ j, nodeAt N j ≠ .free → ∃! p, Reaches N root p j) : TreeWf N root where
  empty h := absurd h hr
  rootInternal _ := hi
  neverFree _ := hn
  once := ho
  leftChild i w l r h := by have := hl i; rw [LocalWf, h] at this; exact this.2.1
  rightChild i w l h := by have := hl i; rw [LocalWf, h] at this; exact this.2.2.1 rfl
  leafPlace i s w h := by have := hl i; rw [LocalWf, h] at this; exact this
  internalPlace i w l r h := by have := hl i; rw [LocalWf, h] at this; exact this.1
  weights i w l r h := by have := hl i; rw [LocalWf, h] at this; exact this.2.2.2.1
  ordered i w l r h := by have := hl i; rw [LocalWf, h] at this; exact this.2.2.2.2

theorem oneTree_leaves : leaves oneTree = 1 := by decide +kernel

theorem oneTree_local (i : NodeIdx) : LocalWf oneTree (leaves oneTree) i := by
  rw [oneTree_leaves]
  by_cases h1 : i = 256#9
  · subst h1; rw [LocalWf, oneTree_at]; refine ⟨by decide, by decide, by decide, ?_, by decide, by decide⟩; decide +kernel
  · by_cases h2 : i = 0x61#9
    · subst h2; rw [LocalWf, oneTree_at]; exact ⟨by decide, by decide⟩
    · rw [LocalWf, oneTree_at, if_neg h1, if_neg h2]; trivial

theorem twoTree_local (i : NodeIdx) : LocalWf twoTree (leaves twoTree) i := by
  by_cases h1 : i = 256#9
  · subst h1; rw [LocalWf, twoTree_at]; refine ⟨by decide, by decide, by decide, ?_, by decide, by decide⟩; decide +kernel
  · by_cases h2 : i = 0x42#9
    · subst h2; rw [LocalWf, twoTree_at]; exact ⟨by decide, by decide⟩
    · by_cases h3 : i = 0x41#9
      · subst h3; rw [LocalWf, twoTree_at]; exact ⟨by decide, by decide⟩
      · rw [LocalWf, twoTree_at, if_neg h1, if_neg h2, if_neg h3]; trivial

theorem oneTree_wf : TreeWf oneTree 256#9 := by
  refine treeWf_of oneTree_local (by decide) ⟨4#32, 0x61#9, NIL, by rw [oneTree_at]; rfl⟩ ?_ ?_
  · intro p j h
    rcases (oneTree_reaches p j).1 h with ⟨-, rfl⟩ | ⟨-, rfl⟩ <;> rw [oneTree_at] <;> decide
  · intro j h
    have hj : j = 256#9 ∨ j = 0x61#9 := by
      rw [oneTree_at] at h
      by_cases h1 : j = 256#9
      · exact .inl h1
      · by_cases h2 : j = 0x61#9
        · exact .inr h2
        · rw [if_neg h1, if_neg h2] at h; exact absurd rfl h
    rcases hj with rfl | rfl
    · exact ⟨[], (oneTree_reaches _ _).2 (.inl ⟨rfl, rfl⟩), fun q hq => by simpa using (oneTree_reaches _ _).1 hq⟩
    · exact ⟨[false], (oneTree_reaches _ _).2 (.inr ⟨rfl, rfl⟩), fun q hq => by simpa using (oneTree_reaches _ _).1 hq⟩

theorem twoTree_wf : TreeWf twoTree 256#9 := by
  refine treeWf_of twoTree_local (by decide) ⟨2#32, 0x41#9, 0x42#9, by rw [twoTree_at]; rfl⟩ ?_ ?_
  · intro p j h
    rcases (twoTree_reaches p j).1 h with ⟨-, rfl⟩ | ⟨-, rfl⟩ | ⟨-, rfl⟩ <;> rw [twoTree_at] <;> decide
  · intro j h
    have hj : j = 256#9 ∨ j = 0x41#9 ∨ j = 0x42#9 := by
      rw [twoTree_at] at h
      by_cases h1 : j = 256#9
      · exact .inl h1
      · by_cases h2 : j = 0x42#9
        · exact .inr (.inr h2)
        · by_cases h3 : j = 0x41#9
          · exact .inr (.inl h3)
          · rw [if_neg h1, if_neg h2, if_neg h3] at h; exact absurd rfl h
    rcases hj with rfl | rfl | rfl
    · exact ⟨[], (twoTree_reaches _ _).2 (.inl ⟨rfl, rfl⟩), fun q hq => by simpa using (twoTree_reaches _ _).1 hq⟩
    · exact ⟨[false], (twoTree_reaches _ _).2 (.inr (.inl ⟨rfl, rfl⟩)), fun q hq => by simpa using (twoTree_reaches _ _).1 hq⟩
    · exact ⟨[true], (twoTree_reaches _ _).2 (.inr (.inr ⟨rfl, rfl⟩)), fun q hq => by simpa using (twoTree_reaches _ _).1 hq⟩

theorem twoTree_full : FullTree twoTree := by
  intro i w l r h
  rw [twoTree_at] at h
  split at h
  · cases h; decide
  · split at h
    · cases h
    · split at h <;> cases h

theorem oneTree_not_full : ¬ FullTree oneTree := fun h =>
  h 256#9 4#32 0x61#9 NIL (by rw [oneTree_at]; rfl) rfl

theorem emptyTree_wf : TreeWf State.reset.node NIL := by
  have hf : ∀ i, nodeAt State.reset.node i = .free := fun i => nodeAt_free i
  constructor
  · exact fun _ => hf
  · exact fun h => absurd rfl h
  · exact fun h => absurd rfl h
  · exact fun j h => absurd (hf j) h
  all_goals intro i; intros; rename_i h; rw [hf] at h; cases h

/-! ### The states and terms the witnesses use -/

/-- The state after reset with one host operation waiting. -/
def waiting (op : HostOp) : State := { State.reset with pending := [op] }

/-- A command answers a next state. -/
def answers (r : Result) : Bool :=
  match r with
  | .next _ => true
  | .fault _ => false
  | .refused _ => false

theorem exec_after {i : Instr} {s : State} (h : answers (exec i s) = true) : exec i s = .next (after i s) := by
  unfold after
  cases hr : exec i s with
  | next t => rfl
  | fault f => rw [hr] at h; cases h
  | refused r => rw [hr] at h; cases h

/-- The counts of "AB" and of "aaaa". -/
def twoFreq : FreqTable := (Table.put (Vector.replicate 256 0#32) 0x41#8 1#32).put 0x42#8 1#32
def oneFreq : FreqTable := Table.put (Vector.replicate 256 0#32) 0xFF#8 4#32

theorem abcTable_at (b : Byte) : abcTable.at b = if 0x43#8 = b then some [false] else if 0x42#8 = b then some [true, true]
    else if 0x41#8 = b then some [true, false] else none := by
  simp only [abcTable, Table.at_put, emptyTable, Table.at_replicate]

theorem abcTable_some {a : Byte} {c : Code} (h : abcTable.at a = some c) :
    (a = 0x43#8 ∧ c = [false]) ∨ (a = 0x42#8 ∧ c = [true, true]) ∨ (a = 0x41#8 ∧ c = [true, false]) := by
  rw [abcTable_at] at h
  by_cases h3 : 0x43#8 = a
  · rw [if_pos h3] at h; exact .inl ⟨h3.symm, by injection h with h; exact h.symm⟩
  · by_cases h2 : 0x42#8 = a
    · rw [if_neg h3, if_pos h2] at h; exact .inr (.inl ⟨h2.symm, by injection h with h; exact h.symm⟩)
    · by_cases h1 : 0x41#8 = a
      · rw [if_neg h3, if_neg h2, if_pos h1] at h; exact .inr (.inr ⟨h1.symm, by injection h with h; exact h.symm⟩)
      · rw [if_neg h3, if_neg h2, if_neg h1] at h; cases h

theorem abcTable_prefixFree : PrefixFree abcTable := by
  intro a b c d hab hc hd
  rcases abcTable_some hc with ⟨rfl, rfl⟩ | ⟨rfl, rfl⟩ | ⟨rfl, rfl⟩ <;>
    rcases abcTable_some hd with ⟨rfl, rfl⟩ | ⟨rfl, rfl⟩ | ⟨rfl, rfl⟩ <;> first | exact absurd rfl hab | decide

theorem abcTable_wf : abcTable.wf = true := by decide +kernel

/-- "ABBCCC" with its table loaded. -/
def emitting : State := { loaded abc with code := abcTable }

/-- "101111000" with its table loaded. -/
def decoding : State := { loadBits (bitString 9 0b101111000) State.reset with code := abcTable }

/-! ### The command word, the step, reset and the host operations -/

theorem witness_ReservedWordSetsIllegalCmdOnly :
    (((0x00#8).toNat = 0 ∨ 11 < (0x00#8).toNat) ∧ (waiting (.issue 0x00#8)).pending = .issue 0x00#8 :: []) ∧
    (((0x0C#8).toNat = 0 ∨ 11 < (0x0C#8).toNat) ∧ (waiting (.regWrite 0 0xFFFFFF0C#32)).pending = .regWrite 0 0xFFFFFF0C#32 :: [] ∧
      (0xFFFFFF0C#32).setWidth 8 = 0x0C#8) ∧
    (11 < (0xFF#8).toNat) := by decide
theorem witness_StepRunsTheIssuedCommand :
    ((waiting (.issue 0x0B#8)).pending = .issue 0x0B#8 :: [] ∧ decode 0x0B#8 = .ok .unpack) ∧
    ((waiting (.regWrite 0 0xABCDEF01#32)).pending = .regWrite 0 0xABCDEF01#32 :: [] ∧
      (0xABCDEF01#32).setWidth 8 = 0x01#8 ∧ decode 0x01#8 = .ok .sreset) ∧ State.reset.pending = [] := by decide
theorem witness_HardwareResetValues : ({ emitting with pending := [.hwReset] } : State).pending = .hwReset :: [] := rfl
theorem witness_RegReadReturnsTheRegister : (waiting (.regRead 13)).pending = .regRead 13 :: [] ∧
    (waiting (.regRead 14)).pending = .regRead 14 :: [] := by decide
theorem witness_RegWriteStoresOrIsIgnored : (waiting (.regWrite 0 2#32)).pending = .regWrite 0 2#32 :: [] ∧
    (waiting (.regWrite 7 2#32)).pending = .regWrite 7 2#32 :: [] ∧ (7 ≠ 2 ∧ 7 ≠ 3 ∧ 7 ≠ 4 ∧ 7 ≠ 6) := by decide
theorem witness_AccessOutOfRangeOrReadOnlyHasNoEffect :
    ((HostOp.bufWrite 0 0 (.byte 1#8)).wf = true ∧ (HostOp.bufWrite 8 0 (.byte 1#8)).wf = true ∧
      (HostOp.bufWrite 2 0x41 (.word32 99#32)).wf = true ∧ (HostOp.bufWrite 3 510 (.word64 0#64)).wf = true ∧
      (HostOp.bufWrite 6 0 (.byte 0x5A#8)).wf = true) ∧
    ((HostOp.bufWrite 1 268435455 (.byte 1#8)).wf = true ∧ params.inCap ≤ 268435455 ∧
      (HostOp.bufWrite 4 256 (.record (List.replicate 33 0#8))).wf = true ∧
      (HostOp.bufWrite 5 536870912 (.byte 1#8)).wf = true ∧ ceil8 params.bitsCap ≤ 536870912 ∧
      (HostOp.bufWrite 7 268444170 (.byte 1#8)).wf = true ∧ params.blobCap ≤ 268444170) ∧
    (waiting (.bufWrite 4 256 (.record (List.replicate 33 0#8)))).pending = [.bufWrite 4 256 (.record (List.replicate 33 0#8))] ∧
    (waiting (.bufRead 3 511)).pending = [.bufRead 3 511] ∧ params.outCap ≤ 2147483640 := by decide +kernel
theorem witness_CodeRecordReadsBackNormalised : (List.replicate 33 0xFF#8).length = 33 ∧ Code.entryWf none = true ∧
    Code.entryWf (some (List.replicate 255 true)) = true ∧ Code.entryWf (some [false]) = true := by decide +kernel
theorem witness_NodeWordFields : 510 < 511 ∧ 511 ≤ 511 := by decide
theorem witness_HostBufferWritesAndReads :
    (waiting (.bufRead 2 255)).pending = [.bufRead 2 255] ∧
    (waiting (.bufWrite 1 268435454 (.byte 7#8))).pending = [.bufWrite 1 268435454 (.byte 7#8)] ∧
    (HostOp.bufWrite 1 268435454 (.byte 7#8)).wf = true ∧
    (let s : State := { State.reset with outLen := 3#32 }; 2 < s.outLen.toNat ∧ 2 < params.outCap) ∧
    Mem.lookup 5 emitting.input = some 0x43#8 ∧
    Mem.wf params.bitsCap decoding.bits = true ∧ 536870911 < ceil8 params.bitsCap ∧ 1 < ceil8 decoding.bitsLen.toNat ∧
    Mem.wf params.inCap emitting.input = true ∧ 268435454 < params.inCap ∧
    Mem.wf params.blobCap (loadBlob abcBlob State.reset).blob = true ∧ 21 < (loadBlob abcBlob State.reset).blobLen.toNat ∧
    268444169 < params.blobCap := by decide +kernel

/-! ### U1, U2 -/

theorem witness_CountCountsOccurrences :
    ({ loaded abc with cfgMaxInput := 6#32 } : State).inLen.toNat ≤ ({ loaded abc with cfgMaxInput := 6#32 } : State).cfgMaxInput.toNat ∧
    ({ loaded abc with cfgMaxInput := 5#32 } : State).cfgMaxInput.toNat < ({ loaded abc with cfgMaxInput := 5#32 } : State).inLen.toNat ∧
    (loaded []).inLen = 0#32 := by decide +kernel
theorem witness_NoCounterOverflows :
    ({ loaded abc with cfgMaxInput := 268435455#32 } : State).cfgMaxInput.toNat ≤ params.maxInputLimit.toNat ∧
    ({ loaded abc with cfgMaxInput := 268435455#32 } : State).inLen.toNat ≤ 268435455 := by decide +kernel
theorem witness_PopMinTakesTheLeastKey : popMin [⟨3#32, 256#9⟩, ⟨3#32, 0x43#9⟩, ⟨4#32, 0x41#9⟩] =
    some (⟨3#32, 0x43#9⟩, [⟨3#32, 256#9⟩, ⟨4#32, 0x41#9⟩]) := by decide +kernel
theorem witness_BuildOfAtMostOneSymbol : (∀ b, State.reset.freq.at b = 0#32) ∧
    oneFreq.at 0xFF#8 ≠ 0#32 ∧ ∀ c, c ≠ 0xFF#8 → oneFreq.at c = 0#32 := by
  refine ⟨fun b => Table.at_replicate _ _, by rw [oneFreq, Table.at_put_self]; decide, fun c h => ?_⟩
  rw [oneFreq, Table.at_put_ne _ _ h.symm, Table.at_replicate]
theorem witness_BuildOfManySymbols : 2 ≤ present twoFreq ∧ total twoFreq < 2 ^ 32 := by decide +kernel
theorem witness_InternalWeightsAreNondecreasing : total (emitting.withFreq twoFreq 2#9).freq < 2 ^ 32 ∧
    ∃ t, exec .build (emitting.withFreq twoFreq 2#9) = .next t := ⟨by decide +kernel, _, rfl⟩

/-- The 8-bit code of a byte, which the optimum is compared with. -/
theorem byteBits_prefixFree (a b : Byte) (h : a ≠ b) : ¬ byteBits a <+: byteBits b := by
  intro hp
  have he : byteBits a = byteBits b := hp.eq_of_length rfl
  have hb : ∀ v : Byte, byteOfBits (fun i => (byteBits v).getD i false) = v := fun v =>
    byteOfBits_of_eq v _ fun i hi => by
      have hl : i < (byteBits v).length := hi
      rw [List.getD_eq_getElem _ _ hl, getElem_byteBits]
  exact h (by rw [← hb a, he, hb b])

theorem witness_HuffmanCodeIsOptimal : total (emitting.withFreq twoFreq 2#9).freq < 2 ^ 32 ∧
    (∃ t u, exec .build (emitting.withFreq twoFreq 2#9) = .next t ∧ exec .walk t = .next u) ∧
    (∀ a : Byte, byteBits a ≠ []) ∧ ∀ a b : Byte, a ≠ b → ¬ byteBits a <+: byteBits b :=
  ⟨by decide +kernel, ⟨_, _, rfl, rfl⟩, fun a => by simp [byteBits], byteBits_prefixFree⟩

/-! ### U3, U4, U5 -/

theorem witness_WalkRecordsThePathToEachLeaf :
    TreeWf ({ State.reset with node := oneTree, root := 256#9 } : State).node 256#9 ∧ TreeWf State.reset.node State.reset.root :=
  ⟨oneTree_wf, emptyTree_wf⟩
theorem witness_WalkedCodeIsPrefixFreeAndComplete :
    (TreeWf twoTree 256#9 ∧ 256#9 ≠ NIL ∧ FullTree twoTree) ∧ TreeWf oneTree 256#9 ∧ ¬ FullTree oneTree :=
  ⟨⟨twoTree_wf, by decide, twoTree_full⟩, oneTree_wf, oneTree_not_full⟩
theorem witness_WalkPerItemStepsAgree : TreeWf twoTree 256#9 := twoTree_wf
theorem abcTable_covers : Covers abcTable abc := by
  intro b hb
  fin_cases hb <;> rw [abcTable_at] <;> decide
theorem emitting_input : emitting.inputBytes = abc := by decide +kernel
theorem witness_EmitConcatenatesTheCodes : emitting.inLen.toNat ≤ emitting.cfgMaxInput.toNat ∧
    Covers emitting.code emitting.inputBytes ∧ (codesOf emitting.code emitting.inputBytes).length ≤ params.bitsCap := by
  rw [emitting_input]
  exact ⟨by decide +kernel, abcTable_covers, by decide +kernel⟩
/-- "ABXCY": the prefix before the unmapped "X". -/
theorem witness_EmitStopsAtTheFirstUnknownSymbol :
    let s : State := { loaded [0x41#8, 0x42#8, 0x58#8, 0x43#8, 0x59#8] with code := abcTable }
    s.inLen.toNat ≤ s.cfgMaxInput.toNat ∧ s.inputBytes = [0x41#8, 0x42#8] ++ 0x58#8 :: [0x43#8, 0x59#8] ∧
      Covers s.code [0x41#8, 0x42#8] ∧ s.code.at 0x58#8 = none ∧ (codesOf s.code [0x41#8, 0x42#8]).length ≤ params.bitsCap := by
  refine ⟨by decide +kernel, by decide +kernel, ?_, by decide +kernel, by decide +kernel⟩
  intro b hb
  exact abcTable_covers b (by fin_cases hb <;> decide)
/-- EMIT of nine bits into eight; EXPORT of 22 bytes into 21; a decode of six bytes, and of one, into none. -/
theorem witness_OutputBeyondItsBufferIsRefused : emitting.inLen.toNat ≤ emitting.cfgMaxInput.toNat ∧
    emitting.inputBytes = [0x41#8, 0x42#8, 0x42#8, 0x43#8, 0x43#8] ++ 0x43#8 :: [] ∧
    Covers emitting.code ([0x41#8, 0x42#8, 0x42#8, 0x43#8, 0x43#8] ++ [0x43#8]) ∧
    ({ params with bitsCap := 8 } : Params).bitsCap <
      (codesOf emitting.code ([0x41#8, 0x42#8, 0x42#8, 0x43#8, 0x43#8] ++ [0x43#8])).length ∧
    ceil8 decoding.bitsLen.toNat ≤ decoding.cfgMaxInput.toNat ∧
    21 < params.magic.length + 4 + (params.tbl.ser decoding.code).length + ceil8 decoding.bitsLen.toNat ∧
    5 < (dect decoding.code decoding.payload).length ∧ 0 < (decr oneTree 256#9 decoding.payload).length :=
  ⟨by decide +kernel, emitting_input, abcTable_covers, by decide +kernel, by decide +kernel, by decide +kernel,
    by decide +kernel, by decide +kernel⟩
theorem witness_RatioStaysInRange : emitting.code.wf = true ∧ emitting.cfgMaxInput.toNat ≤ params.maxInputLimit.toNat ∧
    ∃ t, exec .emit emitting = .next t ∧ t.status = 0x00#8 :=
  ⟨abcTable_wf, by decide +kernel, _, exec_after (by decide +kernel), by decide +kernel⟩
theorem witness_CounterAndEncoderPerItemStepsAgree : Covers abcTable abc := abcTable_covers
/-- Nine bits need two bytes: the bound 2 is the boundary. -/
theorem witness_DectDecodesByTableWalk :
    let s : State := { decoding with cfgMaxInput := 2#32 }
    ceil8 s.bitsLen.toNat ≤ s.cfgMaxInput.toNat ∧ s.bitsLen.toNat ≤ params.outCap := by decide +kernel
theorem witness_DecrDecodesByTreeWalk :
    let s : State := { decoding with cfgMaxInput := 2#32, node := oneTree, root := 256#9 }
    ceil8 s.bitsLen.toNat ≤ s.cfgMaxInput.toNat ∧ s.bitsLen.toNat ≤ params.outCap := by decide +kernel
/-- {a:"0"} and the bit 1. -/
theorem witness_BoundedAccumulatorIsEnough :
    let t : CodeTable := emptyTable.put 0x61#8 (some [false])
    ([true] : Bits) ≠ [] ∧ (∀ p a, p <+: [true] → p ≠ [] → t.at a ≠ some p) ∧ (∀ a c, t.at a = some c → ¬ [true] <+: c) ∧
      t.wf = true := by
  have ht : ∀ a, Table.at (emptyTable.put 0x61#8 (some [false])) a = if 0x61#8 = a then some [false] else none := fun a => by
    rw [Table.at_put, emptyTable, Table.at_replicate]
  refine ⟨by decide, fun p a hp hne => ?_, fun a c hc => ?_, by decide +kernel⟩
  · have hp1 : p = [true] := by
      obtain ⟨u, hu⟩ := hp
      cases p with
      | nil => exact absurd rfl hne
      | cons x p => simp at hu; simp [hu]
    rw [ht, hp1]; split <;> simp
  · rw [ht] at hc
    split at hc
    · cases hc; decide
    · cases hc
theorem witness_DecodeNeverOutgrowsOut :
    ({ decoding with cfgMaxInput := 268435455#32 } : State).cfgMaxInput.toNat ≤ params.maxInputLimit.toNat := by decide +kernel
theorem witness_TableWalkInvertsEmit : PrefixFree abcTable ∧ abcTable.wf = true ∧ Covers abcTable abc :=
  ⟨abcTable_prefixFree, abcTable_wf, abcTable_covers⟩
theorem witness_TreeWalkInvertsEmit : TreeWf twoTree 256#9 ∧ ∀ b ∈ [0x41#8, 0x42#8, 0x41#8], ∃ i w, nodeAt twoTree i = .leaf b w := by
  refine ⟨twoTree_wf, fun b hb => ?_⟩
  have hb' : b = 0x41#8 ∨ b = 0x42#8 := by simp at hb; tauto
  rcases hb' with rfl | rfl
  · exact ⟨0x41#9, 1#32, by rw [twoTree_at]; rfl⟩
  · exact ⟨0x42#9, 1#32, by rw [twoTree_at]; rfl⟩
theorem witness_DecodeStrategiesAgree : TreeWf State.reset.node NIL ∧ (TreeWf twoTree 256#9 ∧ 256#9 ≠ NIL ∧ FullTree twoTree) ∧
    TreeWf oneTree 256#9 ∧ ¬ FullTree oneTree :=
  ⟨emptyTree_wf, ⟨twoTree_wf, by decide, twoTree_full⟩, oneTree_wf, oneTree_not_full⟩
theorem witness_PadBitsDecodeToTheAllZeroSymbol : TreeWf oneTree 256#9 ∧ 256#9 ≠ NIL := ⟨oneTree_wf, by decide⟩

/-! ### U6 -/

theorem witness_TableBlockRoundTrip : abcTable.wf = true ∧
    CodeTable.wf (Vector.replicate 256 (some (List.replicate 255 true))) = true := ⟨abcTable_wf, by decide +kernel⟩
theorem witness_TableBlockIsCanonical : (tblPar ((abcBlob.drop 8).take 12)).isSome = true ∧ (tblPar [1#8, 0#8, 0#8]).isSome = true := by
  decide +kernel
theorem witness_ExportWritesTheContainer :
    let s : State := { decoding with cfgMaxInput := 2#32 }
    ceil8 s.bitsLen.toNat ≤ s.cfgMaxInput.toNat ∧ 8 + (tblSer s.code).length + ceil8 s.bitsLen.toNat ≤ params.blobCap := by
  decide +kernel
theorem abc_container : container params abcTable (bitString 9 0b101111000) = abcBlob := by decide +kernel
theorem abc_blobBytes : (loadBlob abcBlob State.reset).blobBytes = abcBlob := by decide +kernel
theorem witness_ImportInvertsContainer :
    let s : State := { loadBlob abcBlob State.reset with cfgMaxInput := 22#32 }
    params.magic.length = 4 ∧ params.tbl.par (params.tbl.ser abcTable) = some abcTable ∧
      (params.tbl.ser abcTable).length < 2 ^ 32 ∧ 8 * ceil8 (bitString 9 0b101111000).length ≤ params.bitsCap ∧
      params.bitsCap < 2 ^ 32 ∧ s.blobBytes = container params abcTable (bitString 9 0b101111000) ∧
      s.blobLen.toNat ≤ s.cfgMaxInput.toNat ∧ abcTable.wf = true ∧ s.cfgMaxInput.toNat ≤ params.maxInputLimit.toNat := by
  refine ⟨by decide +kernel, by decide +kernel, by decide +kernel, by decide +kernel, by decide +kernel, ?_, by decide +kernel,
    abcTable_wf, by decide +kernel⟩
  rw [abc_container]; exact abc_blobBytes
/-- A whole container; no byte; the tag alone; a block cut off; a wrong version. -/
theorem witness_ImportParsesOrDegrades :
    let s : State := { loadBlob abcBlob State.reset with cfgMaxInput := 22#32 }
    (s.blobLen.toNat ≤ s.cfgMaxInput.toNat ∧ s.cfgMaxInput.toNat ≤ params.maxInputLimit.toNat ∧ ¬ Malformed s.blobBytes) ∧
      Malformed (loadBlob [] State.reset).blobBytes ∧ Malformed (abcBlob.take 7) ∧ Malformed (abcBlob.take 19) ∧
      Malformed (abcBlob.set 8 2#8) := by
  refine ⟨⟨by decide +kernel, by decide +kernel, ?_⟩, .inl (by decide), .inr (.inr (.inl (by decide))),
    .inr (.inr (.inr (.inl (by decide +kernel)))), .inr (.inr (.inr (.inr (by decide +kernel))))⟩
  have hb : ({ loadBlob abcBlob State.reset with cfgMaxInput := 22#32 } : State).blobBytes = abcBlob := abc_blobBytes
  rw [hb]
  rintro (h | h | h | h | h) <;> revert h <;> decide +kernel
theorem witness_ExportAfterImportReproducesTheBlob : (loadBlob abcBlob State.reset).cfgMaxInput.toNat ≤ params.maxInputLimit.toNat ∧
    ∃ t, exec .importContainer (loadBlob abcBlob State.reset) = .next t ∧ t.status = 0x00#8 :=
  ⟨by decide +kernel, _, exec_after (by decide +kernel), by decide +kernel⟩
theorem witness_CodecPerItemStepsAgree : params.magic.length = 4 := rfl

/-! ### Session and compound commands -/

theorem witness_EncodeIsCountBuildWalkEmit :
    let s : State := { loaded abc with cfgMaxInput := 6#32 }
    s.inLen.toNat ≤ s.cfgMaxInput.toNat := by decide +kernel
theorem witness_EncodeCompletes :
    let s : State := { loaded abc with cfgMaxInput := 6#32 }
    s.inLen.toNat ≤ s.cfgMaxInput.toNat ∧ 255 * s.inLen.toNat ≤ params.bitsCap := by decide +kernel
theorem witness_EncodedPayloadNeverExceedsTheInput :
    let s : State := { loaded aaaa with cfgMaxInput := 268435455#32 }
    s.inLen.toNat ≤ s.cfgMaxInput.toNat ∧ s.cfgMaxInput.toNat ≤ params.maxInputLimit.toNat := by decide +kernel
/-- The parts of two equal tuples, without evaluating them. -/
theorem parts {α β γ : Type} {a a' : α} {b b' : β} {c c' : γ} (h : (a, b, c) = (a', b', c')) : a = a' ∧ b = b' ∧ c = c' := by
  injection h with h1 h2
  injection h2 with h2 h3
  exact ⟨h1, h2, h3⟩

theorem encode_run : (answers (exec .encode (loaded abc)), (after .encode (loaded abc)).status,
    Nat.ble (ceil8 (after .encode (loaded abc)).bitsLen.toNat) (after .encode (loaded abc)).cfgMaxInput.toNat) =
    (true, 0x00#8, true) := by decide +kernel
theorem encode_next : exec .encode (loaded abc) = .next (after .encode (loaded abc)) := exec_after (parts encode_run).1
theorem witness_UnknownSymbolOnlyFromEmit : Instr.encode ≠ .emit ∧ ∃ t, exec .encode (loaded abc) = .next t :=
  ⟨by decide, _, encode_next⟩
theorem witness_EncodeThenDecodeWhenThePayloadFits : (loaded abc).cfgMaxInput.toNat ≤ params.maxInputLimit.toNat ∧
    ∃ t, exec .encode (loaded abc) = .next t ∧ t.status ≠ 0x08#8 ∧ ceil8 t.bitsLen.toNat ≤ t.cfgMaxInput.toNat :=
  ⟨by decide +kernel, _, encode_next, by rw [(parts encode_run).2.1]; decide, Nat.le_of_ble_eq_true (parts encode_run).2.2⟩
theorem witness_EncodeThenDecodeGivesTheInput : (loaded []).inLen.toNat ≤ (loaded []).cfgMaxInput.toNat ∧
    (loaded abc).inLen.toNat ≤ (loaded abc).cfgMaxInput.toNat ∧ (loaded abc).cfgMaxInput.toNat ≤ params.maxInputLimit.toNat := by
  decide +kernel
theorem witness_UnpackIsImportThenDect :
    let s : State := { loadBlob abcBlob State.reset with cfgMaxInput := 22#32 }
    s.blobLen.toNat ≤ s.cfgMaxInput.toNat ∧ s.cfgMaxInput.toNat ≤ params.maxInputLimit.toNat := by decide +kernel
theorem export_run : (answers (exec .exportContainer (after .encode (loaded abc))), (after .exportContainer (after .encode (loaded abc))).status,
      (after .exportContainer (after .encode (loaded abc))).blobBytes) = (true, 0x00#8, abcBlob) := by decide +kernel
theorem witness_EncodeExportImportDecode : (loaded abc).cfgMaxInput.toNat ≤ params.maxInputLimit.toNat ∧
    ∃ t u, exec .encode (loaded abc) = .next t ∧ t.status = 0x00#8 ∧ exec .exportContainer t = .next u ∧ u.status = 0x00#8 ∧
      (loadBlob abcBlob State.reset).blobBytes = u.blobBytes ∧
      (loadBlob abcBlob State.reset).blobLen.toNat ≤ (loadBlob abcBlob State.reset).cfgMaxInput.toNat :=
  ⟨by decide +kernel, _, _, encode_next, (parts encode_run).2.1, exec_after (parts export_run).1, (parts export_run).2.1,
    abc_blobBytes.trans (parts export_run).2.2.symm, by decide +kernel⟩

/-! ### Conditions and whole-machine statements -/

theorem witness_CapacityIsRejectedBeforeAnyProcessing :
    (5#32).toNat < (loaded abc).inLen.toNat ∧ (1#32).toNat < ceil8 decoding.bitsLen.toNat ∧
    (21#32).toNat < (loadBlob abcBlob State.reset).blobLen.toNat ∧
    ∃ t, exec .count { loaded abc with cfgMaxInput := 5#32 } = .next t ∧ t.status.getLsbD 3 = true :=
  ⟨by decide +kernel, by decide +kernel, by decide +kernel, _, exec_after (by decide +kernel), by decide +kernel⟩
theorem witness_EmptyExactlyForEmptyInput :
    ∃ t u, exec .walk State.reset = .next t ∧ (t.status &&& 0x1C#8) = 0#8 ∧ exec .emit emitting = .next u ∧
      (u.status &&& 0x1C#8) = 0#8 :=
  ⟨_, _, exec_after (by decide +kernel), by decide +kernel, exec_after (by decide +kernel), by decide +kernel⟩
theorem witness_StatusValuesAreExactlySeven : (waiting (.issue 0x09#8)).pending = .issue 0x09#8 :: [] ∧
    ∃ t, step (waiting (.issue 0x09#8)) = .next t ∧ t.status = 0x03#8 := by
  refine ⟨rfl, after .importContainer (State.reset.accept []), ?_, by decide +kernel⟩
  have h : step (waiting (.issue 0x09#8)) = exec .importContainer (State.reset.accept []) := rfl
  rw [h]
  exact exec_after (by decide +kernel)
theorem witness_CommandsWriteOnlyTheirOutputs : ∀ i ∈ [Instr.count, .build, .walk, .emit, .dect, .decr, .exportContainer,
    .importContainer, .encode, .unpack], answers (exec i State.reset) = true := by decide +kernel
/-- Two states that differ in what no command reads. -/
theorem witness_OutputsDependOnTheOperandsOnly :
    let s : State := emitting
    let s' : State := { emitting with errPos := 7#32, out := [(0, 1#8)], draws := 9 }
    s.cfgMaxInput = s'.cfgMaxInput ∧ s.inLen = s'.inLen ∧ s.inputBytes = s'.inputBytes ∧ s.freq = s'.freq ∧ s.node = s'.node ∧
      s.root = s'.root ∧ s.bitsLen = s'.bitsLen ∧ s.payload = s'.payload ∧ s.code = s'.code ∧ s.blobLen = s'.blobLen ∧
      s.blobBytes = s'.blobBytes :=
  ⟨rfl, rfl, by decide +kernel, rfl, rfl, rfl, rfl, by decide +kernel, rfl, rfl, by decide +kernel⟩

/-! ### A legal instance other than the one `step` runs: a table codec that writes every entry, a byte a bit -/

def plainEntry : Option Code → List Byte
  | none => [0#8]
  | some c => BitVec.ofNat 8 c.length :: c.map fun b => if b then 1#8 else 0#8

def plainSer (t : CodeTable) : List Byte := t.toList.flatMap plainEntry

def readPlain : Nat → List Byte → Option (List (Option Code))
  | 0, [] => some []
  | 0, _ :: _ => none
  | _ + 1, [] => none
  | n + 1, l :: bs =>
    if l = 0#8 then (readPlain n bs).map (none :: ·)
    else (readPlain n (bs.drop l.toNat)).map (some ((bs.take l.toNat).map (· == 1#8)) :: ·)

def plainPar (b : List Byte) : Option CodeTable :=
  match readPlain 256 b with
  | none => none
  | some es => if h : es.length = 256 then
      let t : CodeTable := ⟨es.toArray, by simpa using h⟩
      if t.wf then some t else none
    else none

theorem readPlain_plain : ∀ es : List (Option Code), es.all Code.entryWf = true →
    readPlain es.length (es.flatMap plainEntry) = some es
  | [], _ => rfl
  | none :: es, h => by
    have ih := readPlain_plain es (by simpa [Code.entryWf] using h)
    simp [readPlain, plainEntry, ih]
  | some c :: es, h => by
    simp only [List.all_cons, Bool.and_eq_true, Code.entryWf, Code.wf, decide_eq_true_eq] at h
    have ih := readPlain_plain es h.2
    have hl : (BitVec.ofNat 8 c.length).toNat = c.length := by simp; omega
    have h0 : BitVec.ofNat 8 c.length ≠ 0#8 := fun e => by
      have := congrArg BitVec.toNat e
      rw [hl] at this
      simp at this
      simp [this] at h
    have hm : ∀ d : Code, (d.map fun b => if b then 1#8 else 0#8).map (· == 1#8) = d := fun d => by
      induction d with
      | nil => rfl
      | cons b d ihd => cases b <;> simp_all
    simp only [List.flatMap_cons, plainEntry, List.cons_append, List.length_cons, readPlain, if_neg h0, hl]
    rw [List.drop_left' (by simp), List.take_left' (by simp), ih, hm]
    rfl

theorem plainPar_ser (t : CodeTable) (h : t.wf = true) : plainPar (plainSer t) = some t := by
  have hr : readPlain 256 (plainSer t) = some t.toList := by
    have := readPlain_plain t.toList h
    simpa [plainSer] using this
  simp only [plainPar, hr]
  rw [dif_pos (by simp)]
  have ht : (⟨t.toList.toArray, by simp⟩ : CodeTable) = t := by
    apply Vector.ext
    intro i hi
    simp
  simp only [ht, h, if_true]

theorem plainSer_length (t : CodeTable) (h : t.wf = true) : (plainSer t).length ≤ 256 * 256 := by
  have hk : ∀ es : List (Option Code), es.all Code.entryWf = true → (es.flatMap plainEntry).length ≤ 256 * es.length := by
    intro es
    induction es with
    | nil => intro _; simp
    | cons e es ih =>
      intro he
      simp only [List.all_cons, Bool.and_eq_true] at he
      have := ih he.2
      cases e with
      | none => simp [plainEntry] at *; omega
      | some c =>
        have hc := he.1
        simp only [Code.entryWf, Code.wf, Bool.and_eq_true, decide_eq_true_eq] at hc
        simp [plainEntry] at *; omega
  simpa [plainSer] using hk t.toList h

/-- The instance: the capacities at their lower bounds but for BITS_CAP, and this codec. -/
def plainInstance : Params :=
  { params with maxInputReset := 7#32, blobCap := 268435455, tbl := { ser := plainSer, par := plainPar } }

theorem plain_legal : plainInstance.Legal where
  limit := by decide
  resetLeLimit := by decide
  inCap := by decide
  blobCap := by decide
  outCap := by decide
  bitsCapLow := by decide
  bitsCapHigh := by decide
  magicLength := rfl
  tbl := {
    roundTrip := plainPar_ser
    fitsLength := fun t h => lt_of_le_of_lt (plainSer_length t h) (by decide)
    parsesTables := fun b t h => by
      simp only [plainInstance, plainPar] at h
      split at h
      · cases h
      · split at h
        · split at h
          · rename_i hw
            injection h with h
            rw [← h]; exact hw
          · cases h
        · cases h }

theorem witness_ResetMeetsTheInvariant : plainInstance.Legal := plain_legal

theorem total_zero : total (Vector.replicate 256 0#32) = 0 := by decide +kernel

/-- A state of the reset baseline, but for its code table, its bound, its lengths and what waits. -/
theorem baseline_inv (P : Params) (s : State) (h : s.cfgMaxInput.toNat ≤ P.maxInputLimit.toNat) (hc : s.code.wf = true) :
    InvAt P { State.reset with
      cfgMaxInput := s.cfgMaxInput, code := s.code, inLen := s.inLen, bitsLen := s.bitsLen, pending := s.pending } where
  input := rfl
  bits := rfl
  out := rfl
  blob := rfl
  cfg := h
  unique := by
    show (0#9).toNat = present (Vector.replicate 256 0#32)
    decide +kernel
  counted := by
    show total (Vector.replicate 256 0#32) ≤ 2 ^ 28 - 1
    rw [total_zero]; decide
  tree := emptyTree_wf
  code := hc
  status := by
    show 0#8 ∈ statusValues
    decide
  stats := by
    show (0#32).toInt = ratioOf (0#32).toNat (0#32).toNat
    decide +kernel
  decoded := fun i h => absurd h (Nat.not_lt_zero i)

theorem witness_EveryStepKeepsTheInvariant :
    (plainInstance.Legal ∧ ∃ s t, InvAt plainInstance s ∧ stepAt plainInstance s = .next t ∧ s.pending = [.hwReset]) ∧
    ∃ s t, s.Inv ∧ step s = .next t ∧ s.pending = [.issue 0x03#8] :=
  ⟨⟨plain_legal, _, _, baseline_inv _ (waiting .hwReset) (by decide +kernel) (by decide +kernel), rfl, rfl⟩,
    _, _, baseline_inv _ (waiting (.issue 0x03#8)) (by decide +kernel) (by decide +kernel), rfl, rfl⟩

/-- Every symbol with a code of 255 bits. -/
def longTable : CodeTable := Vector.replicate 256 (some (List.replicate 255 true))

theorem long_length : ∀ (x : List Byte) (i : Nat), (emitFrom longTable i x).bits.length = 255 * x.length
  | [], _ => rfl
  | b :: x, i => by
    have h : longTable.at b = some (List.replicate 255 true) := Table.at_replicate _ _
    simp only [emitFrom, h, List.length_append, List.length_replicate, long_length x (i + 1), List.length_cons]
    omega

/-- An input of the largest length, with the longest codes: EMIT outgrows BITS. -/
def outgrowing : State :=
  { State.reset with cfgMaxInput := 268435455#32, code := longTable, inLen := 268435455#32, pending := [.issue 0x05#8] }

/-- The longest payload the bound admits: EXPORT outgrows a BLOB at its lower bound. -/
def exporting : State :=
  { State.reset with cfgMaxInput := 268435455#32, bitsLen := 2147483640#32, pending := [.issue 0x08#8] }

theorem witness_OnlyOverflowAndIllTypedWritesAreRefused :
    plainInstance.Legal ∧
    (InvAt plainInstance outgrowing ∧ stepAt plainInstance outgrowing = .refused (.bufferOverflow .bits)) ∧
    (InvAt plainInstance exporting ∧ stepAt plainInstance exporting = .refused (.bufferOverflow .blob)) ∧
    ∃ s : State, InvAt plainInstance s ∧ stepAt plainInstance s = .refused .illTypedElement := by
  refine ⟨plain_legal, ⟨baseline_inv _ outgrowing (by decide +kernel) (by decide +kernel), ?_⟩,
    ⟨baseline_inv _ exporting (by decide +kernel) (by decide +kernel), ?_⟩,
    _, baseline_inv _ (waiting (.bufWrite 1 0 (.word32 0#32))) (by decide +kernel) (by decide +kernel), rfl⟩
  · have h : stepAt plainInstance outgrowing = execAt plainInstance .emit (outgrowing.accept []) := rfl
    rw [h, execAt_emit]
    rcases emitBody_cases plainInstance (outgrowing.accept []).clearStatus with ⟨h1, -⟩ | ⟨-, -, e⟩ | ⟨-, h2, -⟩ | ⟨-, h2, -⟩
    · exact absurd h1 (by decide +kernel)
    · exact e
    all_goals
      have h3 := long_length (outgrowing.accept []).clearStatus.inputBytes 0
      rw [length_inputBytes] at h3
      have h4 : (outgrowing.accept []).clearStatus.inLen.toNat = 268435455 := rfl
      have h5 : plainInstance.bitsCap = 4294967295 := rfl
      have h6 : emit (outgrowing.accept []).clearStatus.code (outgrowing.accept []).clearStatus.inputBytes =
        emitFrom longTable 0 (outgrowing.accept []).clearStatus.inputBytes := rfl
      rw [h6, h3, h4, h5] at h2
      omega
  · have h : stepAt plainInstance exporting = execAt plainInstance .exportContainer (exporting.accept []) := rfl
    rw [h, execAt_export]
    rcases exportBody_cases plainInstance (exporting.accept []).clearStatus with ⟨h1, -⟩ | ⟨-, -, e⟩ | ⟨-, h2, -⟩
    · exact absurd h1 (by decide +kernel)
    · exact e
    · have h3 : (container plainInstance (exporting.accept []).clearStatus.code (exporting.accept []).clearStatus.payload).length =
          4 + 4 + (plainSer emptyTable).length + ceil8 2147483640 := by
        have e1 : plainInstance.magic.length = 4 := rfl
        have e2 : (exporting.accept []).clearStatus.bitsLen.toNat = 2147483640 := rfl
        have e3 : plainInstance.tbl.ser (exporting.accept []).clearStatus.code = plainSer emptyTable := rfl
        simp only [container, List.length_append, length_le32, length_pack, length_payload, e1, e2, e3]
      have h4 : plainInstance.blobCap = 268435455 := rfl
      have h5 : ceil8 2147483640 = 268435455 := rfl
      rw [h3, h4, h5] at h2
      omega

end Sys2Proof.Tests
end

section
/-! SUPPORT. The default table block (46_container_codec.md R232 to R235): its length, its parser as the inverse of its
serialiser, and the legality of `params` (00_scope.md R9). -/

namespace Sys2Proof

theorem Code.wf_iff {c : Code} : Code.wf c = true ↔ 1 ≤ c.length ∧ c.length ≤ 255 := by
  simp [Code.wf]

/-- What a suffix of the entries that begins at symbol `s` begins with. -/
theorem Table.drop_toList_eq_cons {α : Type} {t : Table α} {s : Nat} {e : α} {l : List α}
    (h : t.toList.drop s = e :: l) : s < 256 ∧ t.at (BitVec.ofNat 8 s) = e ∧ t.toList.drop (s + 1) = l := by
  have hs : s < t.toList.length := by
    by_contra hs
    simp [List.drop_eq_nil_of_le (Nat.le_of_not_lt hs)] at h
  rw [List.drop_eq_getElem_cons hs] at h
  obtain ⟨he, hl⟩ := List.cons.inj h
  have hs' : s < 256 := by simpa using hs
  have hm : s % 256 = s := Nat.mod_eq_of_lt hs'
  exact ⟨hs', by simpa [Table.at, hm] using he, hl⟩

theorem CodeTable.wf_iff {t : CodeTable} : t.wf = true ↔ ∀ b c, t.at b = some c → Code.wf c = true := by
  simp only [CodeTable.wf, List.all_eq_true, Vector.mem_toList_iff]
  constructor
  · intro h b c hb
    exact h (some c) (hb ▸ Vector.getElem_mem _)
  · intro h e he
    obtain ⟨i, hi, rfl⟩ := Vector.mem_iff_getElem.mp he
    have hb : t.at (BitVec.ofNat 8 i) = t[i] := by simp [Table.at, Nat.mod_eq_of_lt hi]
    cases hc : t[i] with
    | none => rfl
    | some c => exact h _ c (hb.trans hc)

theorem CodeTable.wf_put {t : CodeTable} {c : Code} (b : Byte) (ht : t.wf = true) (hc : Code.wf c = true) :
    CodeTable.wf (t.put b (some c)) = true := by
  rw [CodeTable.wf_iff] at ht ⊢
  intro a d had
  rw [Table.at_put] at had
  split at had
  · exact Option.some.inj had ▸ hc
  · exact ht a d had

/-- The entries of the symbols below `s`, the others absent: the table a parser has built when it comes to symbol `s`. -/
def CodeTable.below (t : CodeTable) (s : Nat) : CodeTable :=
  Vector.ofFn fun i => if i.val < s then t[i] else none

theorem CodeTable.at_below (t : CodeTable) (s : Nat) (b : Byte) :
    (t.below s).at b = if b.toNat < s then t.at b else none := by
  simp [CodeTable.below, Table.at]

namespace Machine

theorem emptyTable_wf : CodeTable.wf emptyTable = true := by
  rw [CodeTable.wf_iff]
  intro b c h
  simp [emptyTable] at h

theorem below_zero (t : CodeTable) : t.below 0 = emptyTable :=
  Table.ext_at fun b => by simp [CodeTable.at_below, emptyTable]

theorem below_of_le (t : CodeTable) {s : Nat} (h : 256 ≤ s) : t.below s = t :=
  Table.ext_at fun b => by rw [CodeTable.at_below, if_pos (b.toNat_lt.trans_le h)]

theorem below_succ_of_none {t : CodeTable} {s : Nat} (h : t.at (BitVec.ofNat 8 s) = none) :
    t.below (s + 1) = t.below s := by
  refine Table.ext_at fun b => ?_
  rw [CodeTable.at_below, CodeTable.at_below]
  by_cases hb : b.toNat = s
  · subst hb
    simpa using h
  · have : b.toNat < s + 1 ↔ b.toNat < s := by omega
    simp only [this]

theorem below_succ_of_some {t : CodeTable} {s : Nat} {c : Code} (hs : s < 256)
    (h : t.at (BitVec.ofNat 8 s) = some c) :
    t.below (s + 1) = (t.below s).put (BitVec.ofNat 8 s) (some c) := by
  refine Table.ext_at fun b => ?_
  rw [Table.at_put, CodeTable.at_below, CodeTable.at_below]
  by_cases hb : BitVec.ofNat 8 s = b
  · subst hb
    have : s % 256 < s + 1 := by omega
    simp [this, h]
  · have hne : b.toNat ≠ s := fun e => hb (by simp [← e])
    have : b.toNat < s + 1 ↔ b.toNat < s := by omega
    simp only [this, if_neg hb]

/-! ### The length of a block (R233) -/

/-- The bytes an entry takes in a block: symbol, length and packed code, or nothing (R233). -/
def entrySize : Option Code → Nat
  | none => 0
  | some c => 2 + ceil8 c.length

theorem entrySize_le {e : Option Code} (h : Code.entryWf e = true) : entrySize e ≤ 34 := by
  cases e with
  | none => exact Nat.zero_le _
  | some c =>
    have hc : c.length ≤ 255 := (Code.wf_iff.mp h).2
    simp only [entrySize, ceil8]
    omega

theorem length_serEntries : ∀ (l : List (Option Code)) (s : Nat), (serEntries s l).length = (l.map entrySize).sum
  | [], _ => rfl
  | none :: l, s => by simp [serEntries, entrySize, length_serEntries l]
  | some c :: l, s => by
    simp +arith [serEntries, entrySize, length_serEntries l]

theorem length_tblSer (t : CodeTable) : (tblSer t).length = 3 + (t.toList.map entrySize).sum := by
  simp +arith [tblSer, length_serEntries]

theorem length_tblSer_le {t : CodeTable} (h : t.wf = true) : (tblSer t).length ≤ 8707 := by
  have hle : ∀ n ∈ t.toList.map entrySize, n ≤ 34 := by
    intro n hn
    obtain ⟨e, he, rfl⟩ := List.mem_map.mp hn
    exact entrySize_le (List.all_eq_true.mp h e he)
  have hsum := List.sum_le_card_nsmul _ _ hle
  simp only [List.length_map, Vector.length_toList, smul_eq_mul] at hsum
  rw [length_tblSer]
  omega

/-! ### The parser is the inverse of the serialiser (R232, R235) -/

theorem le16_unle (a b : Byte) : le16 (unle [a, b]) = [a, b] := by
  have ha := a.isLt
  have hb := b.isLt
  simp only [le16, unle, List.cons.injEq, and_true]
  constructor <;> apply BitVec.eq_of_toNat_eq <;> simp only [BitVec.toNat_ofNat] <;> omega

/-- Bytes whose bits from `n` on are zero pad bits are the packing of their first `n` bits. -/
theorem pack_take_unpack {B : List Byte} {n : Nat} (hn : B.length = ceil8 n)
    (hpad : ((unpack B).drop n).any id = false) : pack ((unpack B).take n) = B := by
  have hlen : ((unpack B).take n).length = n := by
    simp only [List.length_take, length_unpack, hn, ceil8]
    omega
  have hdrop : (unpack B).drop n = List.replicate (8 * ceil8 n - n) false := by
    rw [List.eq_replicate_iff]
    exact ⟨by simp [hn], by simpa using hpad⟩
  apply Function.LeftInverse.injective pack_unpack
  rw [unpack_pack, hlen, ← hdrop, List.take_append_drop]

/-- The parser of k + 1 entries takes exactly the entry of a symbol that is not below `lo` and of a legal code, then parses
k entries from the next symbol on. -/
theorem parEntries_succ_eq_some_iff {k lo : Nat} {t u : CodeTable} {B : List Byte} :
    parEntries (k + 1) lo t B = some u ↔ ∃ (b : Byte) (c : Code) (rest : List Byte),
      B = [b, BitVec.ofNat 8 c.length] ++ pack c ++ rest ∧ lo ≤ b.toNat ∧ Code.wf c = true ∧
      parEntries k (b.toNat + 1) (t.put b (some c)) rest = some u := by
  constructor
  · intro h
    match B with
    | [] | [_] => simp [parEntries] at h
    | b :: l :: rest =>
      simp only [parEntries] at h
      split_ifs at h with hlo hl hrest hpad
      have hlen : ((unpack (rest.take (ceil8 l.toNat))).take l.toNat).length = l.toNat := by
        simp only [List.length_take, length_unpack, ceil8] at hrest ⊢
        omega
      have hl1 : l.toNat ≠ 0 := fun e => hl (BitVec.eq_of_toNat_eq e)
      refine ⟨b, _, _, ?_, Nat.le_of_not_lt hlo, ?_, h⟩
      · rw [hlen, pack_take_unpack (by simpa using hrest) (by simpa using hpad)]
        simp
      · rw [Code.wf_iff, hlen]
        have := l.isLt
        omega
  · rintro ⟨b, c, rest, rfl, hlo, hc, h⟩
    obtain ⟨hc1, hc2⟩ := Code.wf_iff.mp hc
    have hl : (BitVec.ofNat 8 c.length).toNat = c.length := by
      simp only [BitVec.toNat_ofNat]
      omega
    have hl0 : BitVec.ofNat 8 c.length ≠ 0#8 := fun e => by
      have h0 : c.length = 0 := by simpa [e] using hl.symm
      omega
    have htake : (pack c ++ rest).take (ceil8 c.length) = pack c := List.take_left' (length_pack c)
    have hdrop : (pack c ++ rest).drop (ceil8 c.length) = rest := List.drop_left' (length_pack c)
    simp [parEntries, hl, hl0, htake, hdrop, hlo, unpack_pack, h]

theorem parEntries_wf {u : CodeTable} : ∀ {k lo : Nat} {t : CodeTable} {B : List Byte}, t.wf = true →
    parEntries k lo t B = some u → u.wf = true
  | 0, _, t, B, ht, h => by
    simp only [parEntries] at h
    split_ifs at h
    exact Option.some.inj h ▸ ht
  | k + 1, _, t, B, ht, h => by
    obtain ⟨b, c, rest, -, -, hc, hrest⟩ := parEntries_succ_eq_some_iff.mp h
    exact parEntries_wf (CodeTable.wf_put b ht hc) hrest

/-- The parser that has built the entries below symbol `s` reads the entries from `s` on back. -/
theorem parEntries_serEntries {u : CodeTable} (hu : u.wf = true) :
    ∀ (l : List (Option Code)) {s lo : Nat}, u.toList.drop s = l → lo ≤ s →
      parEntries (l.countP Option.isSome) lo (u.below s) (serEntries s l) = some u
  | [], s, lo, hl, _ => by
    have hs : 256 ≤ s := by simpa using hl
    simp [parEntries, serEntries, below_of_le u hs]
  | none :: l, s, lo, hl, hlo => by
    obtain ⟨-, hat, hdrop⟩ := Table.drop_toList_eq_cons hl
    rw [← below_succ_of_none hat]
    simpa [serEntries] using parEntries_serEntries hu l hdrop (Nat.le_succ_of_le hlo)
  | some c :: l, s, lo, hl, hlo => by
    obtain ⟨hs, hat, hdrop⟩ := Table.drop_toList_eq_cons hl
    have hb : (BitVec.ofNat 8 s).toNat = s := by simpa using hs
    have ih := parEntries_serEntries hu l hdrop (Nat.le_refl (s + 1))
    rw [List.countP_cons_of_pos rfl, parEntries_succ_eq_some_iff]
    refine ⟨BitVec.ofNat 8 s, c, serEntries (s + 1) l, rfl, ?_, CodeTable.wf_iff.mp hu _ c hat, ?_⟩
    · rwa [hb]
    · rwa [hb, ← below_succ_of_some hs hat]

/-- The parser takes exactly a version byte, a count of at most 256, and that many entries. -/
theorem tblPar_eq_some_iff {B : List Byte} {t : CodeTable} :
    tblPar B = some t ↔ ∃ (k : Nat) (rest : List Byte),
      B = [0x01#8] ++ le16 k ++ rest ∧ k ≤ 256 ∧ parEntries k 0 emptyTable rest = some t := by
  constructor
  · intro h
    match B with
    | [] | [_] | [_, _] => simp [tblPar] at h
    | v :: k0 :: k1 :: rest =>
      simp only [tblPar] at h
      split_ifs at h with hv hk
      refine ⟨unle [k0, k1], rest, ?_, Nat.le_of_not_lt hk, h⟩
      rw [le16_unle, not_not.mp hv]
      rfl
  · rintro ⟨k, rest, rfl, hk, h⟩
    have hu : unle (le16 k) = k := unle_le16 k (by omega)
    simp only [le16] at hu
    simp only [le16, tblPar, List.cons_append, List.nil_append, hu]
    rw [if_neg (not_not.mpr rfl), if_neg (Nat.not_lt.mpr hk)]
    exact h

theorem tblPar_tblSer {t : CodeTable} (h : t.wf = true) : tblPar (tblSer t) = some t := by
  have hk : t.toList.countP Option.isSome ≤ 256 := by
    simpa using List.countP_le_length (p := Option.isSome) (l := t.toList)
  refine tblPar_eq_some_iff.mpr ⟨_, _, rfl, hk, ?_⟩
  rw [← below_zero t]
  exact parEntries_serEntries h _ List.drop_zero (Nat.le_refl 0)

theorem tblPar_wf {B : List Byte} {t : CodeTable} (h : tblPar B = some t) : t.wf = true := by
  obtain ⟨k, rest, -, -, hrest⟩ := tblPar_eq_some_iff.mp h
  exact parEntries_wf emptyTable_wf hrest

/-! ### The machine at `params` (00_scope.md R9) -/

theorem defaultTbl_lawful : defaultTbl.Lawful where
  roundTrip _ h := tblPar_tblSer h
  fitsLength _ h := (length_tblSer_le h).trans_lt (by decide)
  parsesTables _ _ h := tblPar_wf h

theorem params_legal : params.Legal where
  limit := by decide
  resetLeLimit := by decide
  inCap := by decide
  blobCap := by decide
  outCap := by decide
  bitsCapLow := by decide
  bitsCapHigh := by decide
  magicLength := rfl
  tbl := defaultTbl_lawful

theorem exec_eq_execAt (i : Instr) (s : State) : exec i s = execAt params i s := by
  cases i <;> rfl

theorem step_eq_stepAt (s : State) : step s = stepAt params s := by
  have h : exec = execAt params := funext₂ exec_eq_execAt
  rw [step, stepAt, h]

theorem core_eq_coreAt : core = coreAt params := by
  have h : step = stepAt params := funext step_eq_stepAt
  rw [core, coreAt, h]
  rfl

/-- Settles O38: the machine is the parametric one command by command, its codec is lawful because the parser inverts the
serialiser, and a block's length is the sum of its entries' sizes. -/
theorem instanceParametersAreLegal : Obligations.InstanceParametersAreLegal :=
  ⟨exec_eq_execAt, step_eq_stepAt, core_eq_coreAt, params_legal, fun t h => ⟨length_tblSer_le h, length_tblSer t⟩⟩

end Machine
end Sys2Proof
end

section
/-! SUPPORT. A conditional flag beside the other updates of the state, its bits of STATUS, and the operands it leaves alone. -/

namespace Sys2Proof.Machine

section
variable (s : State) (c : Bool) (f : BitVec 8)

/-- A conditional flag is set or it is not. -/
theorem State.flagIf_cases : s.flagIf c f = s ∨ s.flagIf c f = s.flag f := by
  cases c
  · exact .inl rfl
  · exact .inr rfl

@[simp] theorem State.flagIf_flagIf : (s.flagIf c f).flagIf c f = s.flagIf c f := by
  cases c
  · rfl
  · simp only [State.flagIf_true, State.flag, BitVec.or_assoc, BitVec.or_self]

@[simp] theorem State.withTree_flagIf (N : Arena) (r : NodeIdx) :
    (s.flagIf c f).withTree N r = (s.withTree N r).flagIf c f := by cases c <;> rfl

@[simp] theorem State.withCode_flagIf (t : CodeTable) :
    (s.flagIf c f).withCode t = (s.withCode t).flagIf c f := by cases c <;> rfl

@[simp] theorem State.withBits_flagIf (b : Bits) :
    (s.flagIf c f).withBits b = (s.withBits b).flagIf c f := by cases c <;> rfl

@[simp] theorem State.withStats_flagIf (o e r : Word) :
    (s.flagIf c f).withStats o e r = (s.withStats o e r).flagIf c f := by cases c <;> rfl

@[simp] theorem State.inputBytes_flagIf : (s.flagIf c f).inputBytes = s.inputBytes := by cases c <;> rfl
@[simp] theorem State.payload_flagIf : (s.flagIf c f).payload = s.payload := by cases c <;> rfl
@[simp] theorem State.outBytes_flagIf : (s.flagIf c f).outBytes = s.outBytes := by cases c <;> rfl
@[simp] theorem State.blobBytes_flagIf : (s.flagIf c f).blobBytes = s.blobBytes := by cases c <;> rfl

@[simp] theorem State.payload_withStats (o e r : Word) : (s.withStats o e r).payload = s.payload := rfl
@[simp] theorem State.payload_withOut (l : List Byte) : (s.withOut l).payload = s.payload := rfl

end

section
variable {s : State} {f : BitVec 8} {i : Nat}

/-- A flag outside the fatal mask makes no state fatal (30_encoding.md R95). -/
theorem State.fatal_flagIf (c : Bool) (h : s.fatal = false) (hf : f &&& fatalMask = 0#8) : (s.flagIf c f).fatal = false := by
  cases c
  · exact h
  · have h' : s.status &&& fatalMask = 0#8 := by simpa [State.fatal] using h
    simp only [State.fatal, State.flagIf_true, State.flag_status, BitVec.and_or_distrib_right, h', hf]
    rfl

theorem State.flag_getLsbD (hf : f.getLsbD i = true) : (s.flag f).status.getLsbD i = true := by
  rw [State.flag_status, BitVec.getLsbD_or, hf, Bool.or_true]

theorem State.flagIf_getLsbD (c : Bool) (hf : f.getLsbD i = false) :
    (s.flagIf c f).status.getLsbD i = s.status.getLsbD i := by
  cases c
  · rfl
  · rw [State.flagIf_true, State.flag_status, BitVec.getLsbD_or, hf, Bool.or_false]

end

end Sys2Proof.Machine
end

section
/-! SUPPORT. Paths below a node, forests of the arena, and the merge of two trees (10_state.md R34, 42_tree_builder.md R152). -/

namespace Sys2Proof.Machine

/-! ### Paths -/

theorem reaches_nil_iff {N : Arena} {i j : NodeIdx} : Reaches N i [] j ↔ i = j := by
  constructor
  · rintro ⟨⟩
    rfl
  · rintro rfl
    exact .here i

/-- The first edge of a path leaves an INTERNAL entry by the child that its bit names. -/
theorem reaches_cons_iff {N : Arena} {i j : NodeIdx} {b : Bool} {p : Bits} : Reaches N i (b :: p) j ↔
    ∃ w l r, nodeAt N i = .internal w l r ∧ (if b then r else l) ≠ NIL ∧ Reaches N (if b then r else l) p j := by
  constructor
  · rintro (_ | ⟨h, hl, t⟩ | ⟨h, hr, t⟩)
    · exact ⟨_, _, _, h, hl, t⟩
    · exact ⟨_, _, _, h, hr, t⟩
  · rintro ⟨w, l, r, h, hc, t⟩
    cases b
    · exact .left h hc t
    · exact .right h hc t

/-- A path from an entry without children is empty. -/
theorem Reaches.eq_of_not_internal {N : Arena} {i j : NodeIdx} {p : Bits} (h : Reaches N i p j)
    (hi : ∀ w l r, nodeAt N i ≠ .internal w l r) : p = [] ∧ j = i := by
  cases p with
  | nil => exact ⟨rfl, (reaches_nil_iff.mp h).symm⟩
  | cons b p =>
    obtain ⟨w, l, r, h, -⟩ := reaches_cons_iff.mp h
    exact absurd h (hi w l r)

/-- Where children exist and have smaller indices, no path goes up, and none meets a FREE entry. -/
theorem Reaches.le_and_ne_free {N : Arena}
    (hN : ∀ i w l r, nodeAt N i = .internal w l r → ∀ c : NodeIdx, c = l ∨ c = r → c ≠ NIL →
      c.toNat < i.toNat ∧ nodeAt N c ≠ .free) :
    ∀ {p : Bits} {i j : NodeIdx}, nodeAt N i ≠ .free → Reaches N i p j → j.toNat ≤ i.toNat ∧ nodeAt N j ≠ .free
  | [], i, j, hi, h => by
    rw [← reaches_nil_iff.mp h]
    exact ⟨le_rfl, hi⟩
  | b :: p, i, j, hi, h => by
    obtain ⟨w, l, r, h, hc, t⟩ := reaches_cons_iff.mp h
    obtain ⟨hlt, hused⟩ := hN i w l r h _ (by cases b <;> simp) hc
    obtain ⟨hle, hj⟩ := Reaches.le_and_ne_free hN hused t
    exact ⟨hle.trans hlt.le, hj⟩

/-! ### Forests -/

/-- The arena of a running BUILD: disjoint trees with the roots `roots`, all entries at `next` and above FREE, children and
weights as R31 and R156 ask. -/
structure Forest (N : Arena) (roots : List NodeIdx) (next : Nat) : Prop where
  next_ge : 256 ≤ next
  nodup : roots.Nodup
  root_used : ∀ i ∈ roots, nodeAt N i ≠ .free
  leaf : ∀ i s w, nodeAt N i = .leaf s w → i = s.setWidth 9 ∧ w ≠ 0#32
  internal : ∀ i w l r, nodeAt N i = .internal w l r →
    256 ≤ i.toNat ∧ i.toNat < next ∧ w = (nodeAt N l).weight + (nodeAt N r).weight
  child : ∀ i w l r, nodeAt N i = .internal w l r → ∀ c : NodeIdx, c = l ∨ c = r →
    c.toNat < i.toNat ∧ nodeAt N c ≠ .free
  cover : ∀ j, nodeAt N j ≠ .free → ∃ i ∈ roots, ∃ p, Reaches N i p j
  unique : ∀ i ∈ roots, ∀ i' ∈ roots, ∀ p p' j, Reaches N i p j → Reaches N i' p' j → i = i' ∧ p = p'

theorem ne_nil_of_used {N : Arena} {i : NodeIdx} (h : nodeAt N i ≠ .free) : i ≠ NIL := by
  rintro rfl
  exact h (nodeAt_nil N)

theorem toNat_setWidth_nine (b : Byte) : (b.setWidth 9).toNat = b.toNat := by
  have := b.toNat_lt
  simp only [BitVec.toNat_setWidth]
  omega

theorem setWidth_nine_injective : Function.Injective fun b : Byte => b.setWidth 9 := fun a b h => by
  have h' := congrArg BitVec.toNat h
  simp only [toNat_setWidth_nine] at h'
  exact BitVec.eq_of_toNat_eq h'

section
variable {N : Arena} {roots : List NodeIdx} {next : Nat}

theorem Forest.used_lt (F : Forest N roots next) {i : NodeIdx} (h : nodeAt N i ≠ .free) : i.toNat < next := by
  cases hi : nodeAt N i with
  | free => exact absurd hi h
  | leaf s w =>
    have := s.toNat_lt
    rw [(F.leaf i s w hi).1, toNat_setWidth_nine]
    exact this.trans_le F.next_ge
  | internal w l r => exact (F.internal i w l r hi).2.1

theorem Forest.reaches_le_and_ne_free (F : Forest N roots next) {p : Bits} {i j : NodeIdx} (hi : nodeAt N i ≠ .free)
    (h : Reaches N i p j) : j.toNat ≤ i.toNat ∧ nodeAt N j ≠ .free :=
  h.le_and_ne_free (fun i w l r h c hc _ => F.child i w l r h c hc) hi

/-- A forest is one up to the order of its roots. -/
theorem Forest.perm (F : Forest N roots next) {roots' : List NodeIdx} (h : roots.Perm roots') : Forest N roots' next where
  next_ge := F.next_ge
  nodup := h.nodup_iff.mp F.nodup
  root_used i hi := F.root_used i (h.mem_iff.mpr hi)
  leaf := F.leaf
  internal := F.internal
  child := F.child
  cover j hj := by
    obtain ⟨i, hi, hp⟩ := F.cover j hj
    exact ⟨i, h.mem_iff.mp hi, hp⟩
  unique i hi i' hi' := F.unique i (h.mem_iff.mpr hi) i' (h.mem_iff.mpr hi')

/-- The tree of a forest with one root, an INTERNAL entry, is well formed. -/
theorem Forest.treeWf {root : NodeIdx} (F : Forest N [root] next) (hroot : 256 ≤ root.toNat) : TreeWf N root := by
  have hused : nodeAt N root ≠ .free := F.root_used root (by simp)
  refine {
    empty := fun h => absurd h (ne_nil_of_used hused)
    rootInternal := fun _ => ?_
    neverFree := fun _ p j h => (F.reaches_le_and_ne_free hused h).2
    once := fun j hj => ?_
    leftChild := fun i w l r h => ne_nil_of_used (F.child i w l r h l (.inl rfl)).2
    rightChild := fun i w l h => absurd rfl (ne_nil_of_used (F.child i w l NIL h NIL (.inr rfl)).2)
    leafPlace := F.leaf
    internalPlace := fun i w l r h => (F.internal i w l r h).1
    weights := fun i w l r h => (F.internal i w l r h).2.2
    ordered := fun i w l r h => ⟨(F.child i w l r h l (.inl rfl)).1, fun _ => (F.child i w l r h r (.inr rfl)).1⟩ }
  · cases hr : nodeAt N root with
    | free => exact absurd hr hused
    | leaf s w =>
      have := s.toNat_lt
      rw [(F.leaf root s w hr).1, toNat_setWidth_nine] at hroot
      omega
    | internal w l r => exact ⟨w, l, r, rfl⟩
  · obtain ⟨i, hi, p, hp⟩ := F.cover j hj
    obtain rfl : i = root := by simpa using hi
    exact ⟨p, hp, fun p' hp' => (F.unique i hi i hi p' p j hp' hp).2⟩

end

/-! ### The merge of two trees -/

/-- An entry written at an index that no child pointer reaches changes no path from below it. -/
theorem reaches_putNode_iff {N : Arena} {next : Nat} {n : Node}
    (hN : ∀ i w l r, nodeAt N i = .internal w l r → ∀ c : NodeIdx, c = l ∨ c = r → c.toNat < i.toNat) :
    ∀ {p : Bits} {i j : NodeIdx}, i.toNat < next → (Reaches (putNode N next n) i p j ↔ Reaches N i p j)
  | [], i, j, _ => by rw [reaches_nil_iff, reaches_nil_iff]
  | b :: p, i, j, hi => by
    have hnode : nodeAt (putNode N next n) i = nodeAt N i := by
      rw [nodeAt_putNode, if_neg (by omega)]
    rw [reaches_cons_iff, reaches_cons_iff, hnode]
    refine exists_congr fun w => exists_congr fun l => exists_congr fun r => and_congr_right fun h => and_congr_right fun _ => ?_
    have hc := hN i w l r h (if b then r else l) (by cases b <;> simp)
    exact reaches_putNode_iff hN (hc.trans hi)

section
variable {N : Arena} {x y : NodeIdx} {rest : List NodeIdx} {next : Nat}

/-- The arena after the merge of the trees at `x` and `y`: one more INTERNAL entry, at `next`. -/
def joinNodes (N : Arena) (x y : NodeIdx) (next : Nat) : Arena :=
  putNode N next (.internal ((nodeAt N x).weight + (nodeAt N y).weight) x y)

theorem nodeAt_joinNodes_next (hnext : next < 511) : nodeAt (joinNodes N x y next) (BitVec.ofNat 9 next) =
    .internal ((nodeAt N x).weight + (nodeAt N y).weight) x y := by
  rw [joinNodes, nodeAt_putNode, if_pos]
  simp only [BitVec.toNat_ofNat]
  omega

theorem nodeAt_joinNodes_of_ne {i : NodeIdx} (h : i.toNat ≠ next) : nodeAt (joinNodes N x y next) i = nodeAt N i := by
  rw [joinNodes, nodeAt_putNode, if_neg fun h' => h h'.1.symm]

/-- An entry of the merged arena is the new one or an old one. -/
theorem eq_or_nodeAt_joinNodes (hnext : next < 511) (i : NodeIdx) :
    i = BitVec.ofNat 9 next ∨ (i.toNat ≠ next ∧ nodeAt (joinNodes N x y next) i = nodeAt N i) := by
  by_cases h : i.toNat = next
  · refine .inl (BitVec.eq_of_toNat_eq ?_)
    simp only [BitVec.toNat_ofNat]
    omega
  · exact .inr ⟨h, nodeAt_joinNodes_of_ne h⟩

theorem Forest.reaches_join_iff (F : Forest N (x :: y :: rest) next) {p : Bits} {i j : NodeIdx} (hi : nodeAt N i ≠ .free) :
    Reaches (joinNodes N x y next) i p j ↔ Reaches N i p j :=
  reaches_putNode_iff (fun i w l r h c hc => (F.child i w l r h c hc).1) (F.used_lt hi)

theorem Forest.nodeAt_join_of_used (F : Forest N (x :: y :: rest) next) {i : NodeIdx} (h : nodeAt N i ≠ .free) :
    nodeAt (joinNodes N x y next) i = nodeAt N i :=
  nodeAt_joinNodes_of_ne (F.used_lt h).ne

theorem Forest.rest_used (F : Forest N (x :: y :: rest) next) {i : NodeIdx} (h : i ∈ rest) : nodeAt N i ≠ .free :=
  F.root_used i (by simp [h])

/-- The child of the new root that a bit names is one of the merged roots. -/
theorem merged_mem (b : Bool) : (if b then y else x) ∈ x :: y :: rest := by cases b <;> simp

/-- No path of the forest arrives at the index that the merge takes. -/
theorem Forest.not_reaches_next (F : Forest N (x :: y :: rest) next) (hnext : next < 511) {i : NodeIdx} {p : Bits}
    (hi : nodeAt N i ≠ .free) : ¬ Reaches N i p (BitVec.ofNat 9 next) := fun h => by
  have hle := (F.reaches_le_and_ne_free hi h).1
  have hlt := F.used_lt hi
  simp only [BitVec.toNat_ofNat] at hle
  omega

/-- A path from the new root is empty, or goes on in one of the merged trees. -/
theorem Forest.reaches_join_next_iff (F : Forest N (x :: y :: rest) next) (hnext : next < 511) {p : Bits} {j : NodeIdx} :
    Reaches (joinNodes N x y next) (BitVec.ofNat 9 next) p j ↔
      (p = [] ∧ j = BitVec.ofNat 9 next) ∨ ∃ b q, p = b :: q ∧ Reaches N (if b then y else x) q j := by
  cases p with
  | nil => simp [reaches_nil_iff, eq_comm]
  | cons b q =>
    have hused : nodeAt N (if b then y else x) ≠ .free := F.root_used _ (by cases b <;> simp)
    rw [reaches_cons_iff, nodeAt_joinNodes_next hnext]
    constructor
    · rintro ⟨w, l, r, h, -, t⟩
      cases h
      exact .inr ⟨b, q, rfl, (F.reaches_join_iff hused).mp t⟩
    · rintro (⟨⟨⟩, -⟩ | ⟨b, q, h, t⟩)
      cases h
      exact ⟨_, _, _, rfl, ne_nil_of_used hused, (F.reaches_join_iff hused).mpr t⟩

/-- After a merge every used entry is still reached. -/
theorem Forest.join_cover (F : Forest N (x :: y :: rest) next) (hnext : next < 511) {j : NodeIdx}
    (hj : nodeAt (joinNodes N x y next) j ≠ .free) :
    ∃ i ∈ rest ++ [BitVec.ofNat 9 next], ∃ p, Reaches (joinNodes N x y next) i p j := by
  rcases eq_or_nodeAt_joinNodes (N := N) (x := x) (y := y) hnext j with rfl | ⟨-, e⟩
  · exact ⟨_, by simp, [], .here _⟩
  · obtain ⟨i, hi, p, hp⟩ := F.cover j (e ▸ hj)
    have hnew : ∀ b : Bool, i = (if b then y else x) →
        Reaches (joinNodes N x y next) (BitVec.ofNat 9 next) (b :: p) j := fun b hb =>
      (F.reaches_join_next_iff hnext).mpr (.inr ⟨b, p, rfl, hb ▸ hp⟩)
    rcases List.mem_cons.mp hi with hi | hi
    · exact ⟨_, by simp, _, hnew false hi⟩
    · rcases List.mem_cons.mp hi with hi | hi
      · exact ⟨_, by simp, _, hnew true hi⟩
      · exact ⟨i, by simp [hi], p, (F.reaches_join_iff (F.rest_used hi)).mpr hp⟩

/-- The new tree shares no entry with a tree that the merge left alone. -/
theorem Forest.join_disjoint (F : Forest N (x :: y :: rest) next) (hnext : next < 511) {i j : NodeIdx} {p p' : Bits}
    (hi : i ∈ rest) (h : Reaches (joinNodes N x y next) i p j) :
    ¬ Reaches (joinNodes N x y next) (BitVec.ofNat 9 next) p' j := fun h' => by
  have hnodup := F.nodup
  simp only [List.nodup_cons, List.mem_cons, not_or] at hnodup
  obtain ⟨⟨-, hx⟩, hy, -⟩ := hnodup
  rw [F.reaches_join_iff (F.rest_used hi)] at h
  rcases (F.reaches_join_next_iff hnext).mp h' with ⟨-, rfl⟩ | ⟨b, q, -, t⟩
  · exact F.not_reaches_next hnext (F.rest_used hi) h
  · have hbi := (F.unique _ (merged_mem b) i (by simp [hi]) _ _ _ t h).1
    cases b
    · exact hx ((show x = i from hbi) ▸ hi)
    · exact hy ((show y = i from hbi) ▸ hi)

/-- The new tree reaches each of its entries by one path. -/
theorem Forest.join_next_unique (F : Forest N (x :: y :: rest) next) (hnext : next < 511) {j : NodeIdx} {p p' : Bits}
    (h : Reaches (joinNodes N x y next) (BitVec.ofNat 9 next) p j)
    (h' : Reaches (joinNodes N x y next) (BitVec.ofNat 9 next) p' j) : p = p' := by
  have hbelow : ∀ (b : Bool) {q}, ¬ Reaches N (if b then y else x) q (BitVec.ofNat 9 next) := fun b =>
    F.not_reaches_next hnext (F.root_used _ (merged_mem b))
  have hne : x ≠ y := fun hxy => by
    have hnodup := F.nodup
    simp [hxy] at hnodup
  rcases (F.reaches_join_next_iff hnext).mp h with ⟨rfl, hj⟩ | ⟨b, q, rfl, t⟩ <;>
    rcases (F.reaches_join_next_iff hnext).mp h' with ⟨rfl, hj'⟩ | ⟨b', q', rfl, t'⟩
  · rfl
  · exact absurd (hj ▸ t') (hbelow b')
  · exact absurd (hj' ▸ t) (hbelow b)
  · obtain ⟨hb, rfl⟩ := F.unique _ (merged_mem b) _ (merged_mem b') _ _ _ t t'
    have hbb : b = b' := by cases b <;> cases b' <;> simp [hne, hne.symm] at hb ⊢
    rw [hbb]

/-- A merge makes a forest of a forest: its two trees are now one (R152). -/
theorem Forest.join (F : Forest N (x :: y :: rest) next) (hnext : next < 511) :
    Forest (joinNodes N x y next) (rest ++ [BitVec.ofNat 9 next]) (next + 1) := by
  have hn : (BitVec.ofNat 9 next).toNat = next := by
    simp only [BitVec.toNat_ofNat]
    omega
  constructor
  case next_ge => exact F.next_ge.trans (Nat.le_succ next)
  case nodup =>
    refine List.nodup_append.mpr ⟨F.nodup.of_cons.of_cons, List.nodup_singleton _, fun i hi c hc => ?_⟩
    rintro rfl
    have hlt := F.used_lt (F.rest_used hi)
    rw [List.mem_singleton.mp hc, hn] at hlt
    omega
  case root_used =>
    intro i hi
    rcases List.mem_append.mp hi with hi | hi
    · rw [F.nodeAt_join_of_used (F.rest_used hi)]
      exact F.rest_used hi
    · rw [List.mem_singleton.mp hi, nodeAt_joinNodes_next hnext]
      exact Node.noConfusion
  case leaf =>
    intro i s w h
    rcases eq_or_nodeAt_joinNodes (N := N) (x := x) (y := y) hnext i with rfl | ⟨-, e⟩
    · rw [nodeAt_joinNodes_next hnext] at h
      cases h
    · exact F.leaf i s w (e ▸ h)
  case internal =>
    intro i w l r h
    rcases eq_or_nodeAt_joinNodes (N := N) (x := x) (y := y) hnext i with rfl | ⟨-, e⟩
    · rw [nodeAt_joinNodes_next hnext] at h
      cases h
      rw [F.nodeAt_join_of_used (F.root_used x (by simp)), F.nodeAt_join_of_used (F.root_used y (by simp)), hn]
      exact ⟨F.next_ge, Nat.lt_succ_self next, rfl⟩
    · rw [e] at h
      obtain ⟨hge, hlt, hw⟩ := F.internal i w l r h
      rw [F.nodeAt_join_of_used (F.child i w l r h l (.inl rfl)).2,
        F.nodeAt_join_of_used (F.child i w l r h r (.inr rfl)).2]
      exact ⟨hge, hlt.trans (Nat.lt_succ_self next), hw⟩
  case child =>
    intro i w l r h c hc
    rcases eq_or_nodeAt_joinNodes (N := N) (x := x) (y := y) hnext i with rfl | ⟨-, e⟩
    · rw [nodeAt_joinNodes_next hnext] at h
      cases h
      have hused : nodeAt N c ≠ .free := F.root_used c (by rcases hc with rfl | rfl <;> simp)
      rw [F.nodeAt_join_of_used hused, hn]
      exact ⟨F.used_lt hused, hused⟩
    · obtain ⟨hlt, hused⟩ := F.child i w l r (e ▸ h) c hc
      exact ⟨hlt, by rwa [F.nodeAt_join_of_used hused]⟩
  case cover => exact fun j hj => F.join_cover hnext hj
  case unique =>
    intro i hi i' hi' p p' j h h'
    rcases List.mem_append.mp hi with hi | hi <;> rcases List.mem_append.mp hi' with hi' | hi'
    · rw [F.reaches_join_iff (F.rest_used hi)] at h
      rw [F.reaches_join_iff (F.rest_used hi')] at h'
      exact F.unique i (by simp [hi]) i' (by simp [hi']) p p' j h h'
    · exact absurd (List.mem_singleton.mp hi' ▸ h') (F.join_disjoint hnext hi h)
    · exact absurd (List.mem_singleton.mp hi ▸ h) (F.join_disjoint hnext hi' h')
    · obtain rfl := List.mem_singleton.mp hi
      obtain rfl := List.mem_singleton.mp hi'
      exact ⟨rfl, F.join_next_unique hnext h h'⟩

end

end Sys2Proof.Machine
end

section
/-! SUPPORT. BUILD makes a well-formed tree from every frequency table (10_state.md R34, 42_tree_builder.md R152 to R156). -/

namespace Sys2Proof.Machine

/-! ### The least key -/

theorem popMin_eq_none_iff {live : List Key} : popMin live = none ↔ live = [] := by
  cases live with
  | nil => simp [popMin]
  | cons k live =>
    unfold popMin
    cases popMin live with
    | none => simp
    | some q => dsimp only; split <;> simp

/-- What is popped and what is left are the live set (R153). -/
theorem popMin_perm : ∀ {live : List Key} {m : Key} {rest : List Key}, popMin live = some (m, rest) →
    (m :: rest).Perm live
  | k :: live, m, rest, h => by
    unfold popMin at h
    cases hp : popMin live with
    | none =>
      simp only [hp, Option.some.injEq, Prod.mk.injEq] at h
      obtain ⟨rfl, rfl⟩ := h
      rw [popMin_eq_none_iff.mp hp]
    | some q =>
      obtain ⟨m', rest'⟩ := q
      have ih := popMin_perm hp
      simp only [hp] at h
      split at h
      · simp only [Option.some.injEq, Prod.mk.injEq] at h
        obtain ⟨rfl, rfl⟩ := h
        exact ih.cons k
      · simp only [Option.some.injEq, Prod.mk.injEq] at h
        obtain ⟨rfl, rfl⟩ := h
        exact (List.Perm.swap k m' rest').trans (ih.cons k)

/-! ### One merge -/

/-- What a merge of the live nodes `x` and `y` leaves, the others being `rest` (R152). -/
def Build.merged (b : Build) (x y : Key) (rest : List Key) : Build where
  node := putNode b.node b.next (.internal (x.weight + y.weight) x.index y.index)
  live := rest ++ [⟨x.weight + y.weight, BitVec.ofNat 9 b.next⟩]
  next := b.next + 1

theorem mergeStep_eq_none {b : Build} (h : b.live.length < 2) : mergeStep b = none := by
  unfold mergeStep
  match hl : b.live with
  | [] => rfl
  | [k] => rfl
  | _ :: _ :: _ => simp [hl] at h

/-- With two or more live nodes a merge takes two of them. -/
theorem mergeStep_eq_some {b : Build} (h : 2 ≤ b.live.length) :
    ∃ x y rest, b.live.Perm (x :: y :: rest) ∧ mergeStep b = some (b.merged x y rest) := by
  unfold mergeStep
  cases h1 : popMin b.live with
  | none => simp [popMin_eq_none_iff.mp h1] at h
  | some q =>
    obtain ⟨x, live1⟩ := q
    have p1 := popMin_perm h1
    cases h2 : popMin live1 with
    | none =>
      have := p1.length_eq
      simp [popMin_eq_none_iff.mp h2] at this
      omega
    | some q =>
      obtain ⟨y, rest⟩ := q
      exact ⟨x, y, rest, (((popMin_perm h2).cons x).trans p1).symm, by simp [h2, Build.merged]⟩

/-- What holds of BUILD's state in the merge loop for the frequency table `f`: a forest whose roots are the live nodes, whose
leaves are the present symbols, and room for the merges to come. -/
structure Build.Inv (f : FreqTable) (b : Build) : Prop where
  forest : Forest b.node (b.live.map Key.index) b.next
  weight : ∀ k ∈ b.live, k.weight = (nodeAt b.node k.index).weight
  leaf : ∀ s w, nodeAt b.node (s.setWidth 9) = .leaf s w ↔ (f.at s ≠ 0#32 ∧ w = f.at s)
  room : b.next + b.live.length ≤ 512

theorem Build.merged_node {b : Build} {x y : Key} {rest : List Key}
    (hx : x.weight = (nodeAt b.node x.index).weight) (hy : y.weight = (nodeAt b.node y.index).weight) :
    (b.merged x y rest).node = joinNodes b.node x.index y.index b.next := by
  rw [Build.merged, joinNodes, ← hx, ← hy]

theorem Build.Inv.merged {f : FreqTable} {b : Build} {x y : Key} {rest : List Key} (I : b.Inv f)
    (h : b.live.Perm (x :: y :: rest)) : (b.merged x y rest).Inv f := by
  have hmem : ∀ {k}, k = x ∨ k = y ∨ k ∈ rest → k ∈ b.live := fun hk => h.mem_iff.mpr (by simpa using hk)
  have hlen := h.length_eq
  have hroom := I.room
  simp only [List.length_cons] at hlen
  have hnext : b.next < 511 := by omega
  have F := I.forest.perm (h.map Key.index)
  have hnode := Build.merged_node (rest := rest) (I.weight x (hmem (.inl rfl))) (I.weight y (hmem (.inr (.inl rfl))))
  have hold : ∀ {i}, i.toNat < b.next → nodeAt (b.merged x y rest).node i = nodeAt b.node i := fun hi => by
    rw [hnode, nodeAt_joinNodes_of_ne hi.ne]
  constructor
  case forest =>
    rw [hnode]
    simpa [Build.merged] using F.join hnext
  case weight =>
    intro k hk
    rcases List.mem_append.mp hk with hk | hk
    · have hk' := hmem (.inr (.inr hk))
      rw [hold (I.forest.used_lt (I.forest.root_used _ (List.mem_map_of_mem hk')))]
      exact I.weight k hk'
    · obtain rfl := List.mem_singleton.mp hk
      rw [Build.merged, nodeAt_putNode, if_pos (by simp only [BitVec.toNat_ofNat]; omega)]
      rfl
  case leaf =>
    intro s w
    rw [hold ((toNat_setWidth_nine s).trans_lt (s.toNat_lt.trans_le I.forest.next_ge))]
    exact I.leaf s w
  case room =>
    simp only [Build.merged, List.length_append, List.length_singleton]
    omega

/-- The merge loop, with at least as many iterations as merges are needed, ends with one live node, an INTERNAL entry. -/
theorem Build.Inv.mergeLoop {f : FreqTable} : ∀ {n : Nat} {b : Build}, b.Inv f → 2 ≤ b.live.length →
    b.live.length ≤ n + 1 → ∃ k, (mergeLoop n b).live = [k] ∧ (mergeLoop n b).Inv f ∧ 256 ≤ k.index.toNat
  | 0, b, _, h2, hn => by omega
  | n + 1, b, I, h2, hn => by
    obtain ⟨x, y, rest, hperm, hstep⟩ := mergeStep_eq_some h2
    have I' := I.merged hperm
    have hlen := hperm.length_eq
    have hroom := I.room
    have hge := I.forest.next_ge
    simp only [List.length_cons] at hlen
    have hloop : Machine.mergeLoop (n + 1) b = Machine.mergeLoop n (b.merged x y rest) := by rw [Machine.mergeLoop, hstep]
    rw [hloop]
    by_cases hrest : rest = []
    · subst hrest
      have hlive : (b.merged x y []).live = [⟨x.weight + y.weight, BitVec.ofNat 9 b.next⟩] := rfl
      have hdone : Machine.mergeLoop n (b.merged x y []) = b.merged x y [] := by
        cases n with
        | zero => rfl
        | succ n => rw [Machine.mergeLoop, mergeStep_eq_none (by simp [hlive])]
      refine ⟨_, by rw [hdone, hlive], by rwa [hdone], ?_⟩
      simp only [BitVec.toNat_ofNat]
      omega
    · have hpos := List.length_pos_iff.mpr hrest
      have hlen' : (b.merged x y rest).live.length = rest.length + 1 := by simp [Build.merged]
      exact I'.mergeLoop (by omega) (by omega)

/-! ### The leaves -/

/-- The live node of the symbol `s` (R152). -/
def leafKey (f : FreqTable) (s : Byte) : Key := ⟨f.at s, s.setWidth 9⟩

/-- What INIT makes of the symbols `l`: the live nodes are the leaves of the present ones, in their order. -/
theorem foldl_initLeaf (f : FreqTable) : ∀ (l : List Byte) (b : Build),
    (l.foldl (initLeaf f) b).next = b.next ∧
    (l.foldl (initLeaf f) b).live = b.live ++ (l.filter fun s => f.at s ≠ 0#32).map (leafKey f) ∧
    ∀ i, nodeAt (l.foldl (initLeaf f) b).node i =
      if i.toNat < 256 ∧ i.setWidth 8 ∈ l ∧ f.at (i.setWidth 8) ≠ 0#32 then .leaf (i.setWidth 8) (f.at (i.setWidth 8))
      else nodeAt b.node i
  | [], b => by simp
  | s :: l, b => by
    obtain ⟨hnext, hlive, hnode⟩ := foldl_initLeaf f l (initLeaf f b s)
    rw [List.foldl_cons]
    by_cases hs : f.at s = 0#32
    · have hb : initLeaf f b s = b := if_pos hs
      refine ⟨by rw [hnext, hb], by rw [hlive, hb]; simp [hs], fun i => ?_⟩
      rw [hnode, hb]
      by_cases his : i.setWidth 8 = s <;> simp [his, hs]
    · have hb : initLeaf f b s = { b with
          node := putNode b.node s.toNat (.leaf s (f.at s)), live := b.live ++ [leafKey f s] } := if_neg hs
      refine ⟨by rw [hnext, hb], by rw [hlive, hb]; simp [hs], fun i => ?_⟩
      rw [hnode, hb, nodeAt_putNode]
      have hiff : s.toNat = i.toNat ↔ i.toNat < 256 ∧ i.setWidth 8 = s := by
        have := s.toNat_lt
        rw [← BitVec.toNat_inj, BitVec.toNat_setWidth]
        omega
      have hlt : s.toNat < 511 := by have := s.toNat_lt; omega
      by_cases his : i.toNat < 256 ∧ i.setWidth 8 = s
      · simp [hiff, his, hs, hlt]
      · simp only [hiff, his, false_and, if_false, List.mem_cons]
        refine if_congr ?_ rfl rfl
        grind

/-- The present symbols, ascending (R30). -/
def presentSymbols (f : FreqTable) : List Byte := ((List.range 256).map (BitVec.ofNat 8)).filter fun s => f.at s ≠ 0#32

theorem mem_range_map_ofNat (b : Byte) : b ∈ (List.range 256).map (BitVec.ofNat 8) :=
  List.mem_map.mpr ⟨b.toNat, List.mem_range.mpr b.toNat_lt, by simp⟩

theorem mem_presentSymbols {f : FreqTable} {s : Byte} : s ∈ presentSymbols f ↔ f.at s ≠ 0#32 := by
  simp [presentSymbols, -List.mem_map, mem_range_map_ofNat]

theorem nodup_presentSymbols (f : FreqTable) : (presentSymbols f).Nodup := by
  refine List.Nodup.filter _ (List.Nodup.map_on (fun a ha b hb h => ?_) List.nodup_range)
  have h' := congrArg BitVec.toNat h
  simp only [BitVec.toNat_ofNat] at h'
  have := List.mem_range.mp ha
  have := List.mem_range.mp hb
  omega

theorem length_presentSymbols_le (f : FreqTable) : (presentSymbols f).length ≤ 256 :=
  (List.length_filter_le _ _).trans (by simp)

theorem initLeaves_next (f : FreqTable) : (initLeaves f).next = 256 := (foldl_initLeaf f _ _).1

theorem initLeaves_live (f : FreqTable) : (initLeaves f).live = (presentSymbols f).map (leafKey f) :=
  (foldl_initLeaf f _ _).2.1

/-- The arena after INIT: the leaf of symbol s at index s when s is present, every other entry FREE (R31, R152). -/
theorem nodeAt_initLeaves (f : FreqTable) (i : NodeIdx) : nodeAt (initLeaves f).node i =
    if i.toNat < 256 ∧ f.at (i.setWidth 8) ≠ 0#32 then .leaf (i.setWidth 8) (f.at (i.setWidth 8)) else .free := by
  rw [initLeaves, (foldl_initLeaf f _ _).2.2 i]
  simp only [mem_range_map_ofNat, true_and, nodeAt_free]

theorem nodeAt_initLeaves_eq_leaf {f : FreqTable} {i : NodeIdx} {s : Byte} {w : Word} :
    nodeAt (initLeaves f).node i = .leaf s w ↔ i = s.setWidth 9 ∧ f.at s ≠ 0#32 ∧ w = f.at s := by
  have hs := s.toNat_lt
  have hi : i = s.setWidth 9 ↔ i.toNat < 256 ∧ i.setWidth 8 = s := by
    rw [← BitVec.toNat_inj, ← BitVec.toNat_inj, toNat_setWidth_nine, BitVec.toNat_setWidth]
    omega
  rw [nodeAt_initLeaves, hi]
  split
  · rename_i h
    simp only [Node.leaf.injEq]
    grind
  · rename_i h
    simp only [reduceCtorEq, false_iff]
    grind

theorem nodeAt_initLeaves_ne_internal {f : FreqTable} (i : NodeIdx) (w : Word) (l r : NodeIdx) :
    nodeAt (initLeaves f).node i ≠ .internal w l r := by
  rw [nodeAt_initLeaves]
  split <;> exact Node.noConfusion

/-- A used entry after INIT is the leaf of a present symbol. -/
theorem exists_leaf_of_used {f : FreqTable} {i : NodeIdx} (h : nodeAt (initLeaves f).node i ≠ .free) :
    ∃ s ∈ presentSymbols f, i = s.setWidth 9 := by
  cases hi : nodeAt (initLeaves f).node i with
  | free => exact absurd hi h
  | leaf s w =>
    obtain ⟨rfl, hs, -⟩ := nodeAt_initLeaves_eq_leaf.mp hi
    exact ⟨s, mem_presentSymbols.mpr hs, rfl⟩
  | internal w l r => exact absurd hi (nodeAt_initLeaves_ne_internal i w l r)

theorem initLeaves_inv (f : FreqTable) : (initLeaves f).Inv f := by
  have hleaf : ∀ {s}, s ∈ presentSymbols f → nodeAt (initLeaves f).node (s.setWidth 9) = .leaf s (f.at s) := fun hs =>
    nodeAt_initLeaves_eq_leaf.mpr ⟨rfl, mem_presentSymbols.mp hs, rfl⟩
  have hlive : (initLeaves f).live.map Key.index = (presentSymbols f).map fun s => s.setWidth 9 := by
    simp [initLeaves_live, leafKey]
  have hpath : ∀ {i j p}, Reaches (initLeaves f).node i p j → p = [] ∧ j = i := fun h =>
    h.eq_of_not_internal (nodeAt_initLeaves_ne_internal _)
  refine ⟨?_, ?_, fun s w => ?_, ?_⟩
  · rw [hlive, initLeaves_next]
    constructor
    case next_ge => exact Nat.le_refl 256
    case nodup => exact (nodup_presentSymbols f).map setWidth_nine_injective
    case root_used =>
      intro i hi
      obtain ⟨s, hs, rfl⟩ := List.mem_map.mp hi
      rw [hleaf hs]
      exact Node.noConfusion
    case leaf =>
      intro i s w h
      obtain ⟨hi, hs, rfl⟩ := nodeAt_initLeaves_eq_leaf.mp h
      exact ⟨hi, hs⟩
    case internal => exact fun i w l r h => absurd h (nodeAt_initLeaves_ne_internal i w l r)
    case child => exact fun i w l r h => absurd h (nodeAt_initLeaves_ne_internal i w l r)
    case cover =>
      intro j hj
      obtain ⟨s, hs, rfl⟩ := exists_leaf_of_used hj
      exact ⟨_, List.mem_map.mpr ⟨s, hs, rfl⟩, [], .here _⟩
    case unique =>
      intro i _ i' _ p p' j h h'
      obtain ⟨rfl, rfl⟩ := hpath h
      obtain ⟨rfl, rfl⟩ := hpath h'
      exact ⟨rfl, rfl⟩
  · intro k hk
    rw [initLeaves_live] at hk
    obtain ⟨s, hs, rfl⟩ := List.mem_map.mp hk
    simp [leafKey, hleaf hs, Node.weight]
  · rw [nodeAt_initLeaves_eq_leaf]
    simp
  · have := length_presentSymbols_le f
    rw [initLeaves_next, initLeaves_live, List.length_map]
    omega

/-! ### The three shapes of a tree -/

/-- An arena of FREE entries is the empty tree (R154). -/
theorem treeWf_nil {N : Arena} (h : ∀ i, nodeAt N i = .free) : TreeWf N NIL where
  empty _ := h
  rootInternal h' := absurd rfl h'
  neverFree h' := absurd rfl h'
  once j hj := absurd (h j) hj
  leftChild i w l r hi := by simp [h] at hi
  rightChild i w l hi := by simp [h] at hi
  leafPlace i s w hi := by simp [h] at hi
  internalPlace i w l r hi := by simp [h] at hi
  weights i w l r hi := by simp [h] at hi
  ordered i w l r hi := by simp [h] at hi

/-- The number of LEAF entries is one when one index holds a leaf. -/
theorem leaves_eq_one {N : Arena} {k : NodeIdx} (h : ∀ i, (nodeAt N i).kind = 1#2 ↔ i = k) : leaves N = 1 := by
  have hk : k.toNat < 511 := by
    by_contra hk
    have : nodeAt N k = .free := by
      rw [nodeAt, Vector.getElem?_eq_none (by omega)]
      rfl
    have hkind := (h k).mpr rfl
    rw [this] at hkind
    cases hkind
  have hlist : N.toList = (List.range 511).map fun i => nodeAt N (BitVec.ofNat 9 i) := by
    apply List.ext_getElem
    · simp
    · intro i h1 h2
      have hi : i < 511 := by simpa using h1
      have hm : i % 512 = i := Nat.mod_eq_of_lt (by omega)
      simp [nodeAt, hm, hi]
  have hcount : leaves N = (List.range 511).count k.toNat := by
    rw [leaves, hlist, List.countP_map]
    refine List.countP_congr fun i hi => ?_
    have hi := List.mem_range.mp hi
    simp only [Function.comp_apply, beq_iff_eq, h]
    rw [← BitVec.toNat_inj, BitVec.toNat_ofNat, Nat.mod_eq_of_lt (by omega)]
  rw [hcount, List.count_eq_one_of_mem List.nodup_range (List.mem_range.mpr hk)]

/-- The arena of one present symbol: its leaf below the synthetic root NODE[256] (R155). -/
def SyntheticTree (N : Arena) (s : Byte) (w : Word) : Prop :=
  ∀ i, nodeAt N i =
    if i = 256#9 then .internal w (s.setWidth 9) NIL else if i = s.setWidth 9 then .leaf s w else .free

theorem setWidth_nine_ne_256 (s : Byte) : s.setWidth 9 ≠ 256#9 := fun h => by
  have hs := s.toNat_lt
  have h' := congrArg BitVec.toNat h
  rw [toNat_setWidth_nine] at h'
  simp only [BitVec.toNat_ofNat] at h'
  omega

theorem syntheticTree_putNode {N : Arena} {s : Byte} {w : Word} (hleaf : nodeAt N (s.setWidth 9) = .leaf s w)
    (hfree : ∀ i, i ≠ s.setWidth 9 → nodeAt N i = .free) :
    SyntheticTree (putNode N 256 (.internal w (s.setWidth 9) NIL)) s w := by
  intro i
  have hi : 256 = i.toNat ∧ 256 < 511 ↔ i = 256#9 := by
    rw [← BitVec.toNat_inj]
    simp [eq_comm]
  rw [nodeAt_putNode, if_congr hi rfl rfl]
  by_cases his : i = s.setWidth 9
  · rw [his, hleaf, if_pos rfl]
  · rw [hfree i his, if_neg his]

section
variable {N : Arena} {s : Byte} {w : Word} (hN : SyntheticTree N s w)
include hN

theorem SyntheticTree.nodeAt_root : nodeAt N 256#9 = .internal w (s.setWidth 9) NIL := by rw [hN, if_pos rfl]

theorem SyntheticTree.nodeAt_leaf : nodeAt N (s.setWidth 9) = .leaf s w := by
  rw [hN, if_neg (setWidth_nine_ne_256 s), if_pos rfl]

theorem SyntheticTree.leaf_ne_nil : s.setWidth 9 ≠ NIL := ne_nil_of_used (N := N) (by simp [hN.nodeAt_leaf])

theorem SyntheticTree.eq_of_internal {i l r : NodeIdx} {v : Word} (h : nodeAt N i = .internal v l r) :
    i = 256#9 ∧ v = w ∧ l = s.setWidth 9 ∧ r = NIL := by
  rw [hN] at h
  split at h
  · cases h
    exact ⟨‹_›, rfl, rfl, rfl⟩
  · split at h <;> cases h

theorem SyntheticTree.eq_of_leaf {i : NodeIdx} {a : Byte} {v : Word} (h : nodeAt N i = .leaf a v) :
    i = s.setWidth 9 ∧ a = s ∧ v = w := by
  rw [hN] at h
  split at h
  · cases h
  · split at h
    · cases h
      exact ⟨‹_›, rfl, rfl⟩
    · cases h

theorem SyntheticTree.reaches_iff {p : Bits} {j : NodeIdx} :
    Reaches N 256#9 p j ↔ (p = [] ∧ j = 256#9) ∨ (p = [false] ∧ j = s.setWidth 9) := by
  cases p with
  | nil => simp [reaches_nil_iff, eq_comm]
  | cons b p =>
    rw [reaches_cons_iff, hN.nodeAt_root]
    constructor
    · rintro ⟨v, l, r, h, hc, t⟩
      cases h
      cases b
      · obtain ⟨rfl, rfl⟩ := t.eq_of_not_internal (by simp [hN.nodeAt_leaf])
        exact .inr ⟨rfl, rfl⟩
      · exact absurd rfl hc
    · rintro (⟨⟨⟩, -⟩ | ⟨h, rfl⟩)
      cases h
      exact ⟨_, _, _, rfl, hN.leaf_ne_nil, .here _⟩

theorem SyntheticTree.existsUnique_path {j : NodeIdx} (hj : nodeAt N j ≠ .free) : ∃! p, Reaches N 256#9 p j := by
  have hne := setWidth_nine_ne_256 s
  simp only [hN.reaches_iff]
  by_cases hroot : j = 256#9
  · exact ⟨[], .inl ⟨rfl, hroot⟩, fun p hp => hp.elim And.left fun h => absurd (h.2.symm.trans hroot) hne⟩
  · have hleaf : j = s.setWidth 9 := by
      by_contra hleaf
      exact hj (by rw [hN, if_neg hroot, if_neg hleaf])
    exact ⟨[false], .inr ⟨rfl, hleaf⟩, fun p hp => hp.elim (fun h => absurd h.2 hroot) And.left⟩

theorem SyntheticTree.leaves_eq_one : leaves N = 1 := by
  refine Machine.leaves_eq_one (k := s.setWidth 9) fun j => ?_
  rw [hN]
  by_cases hroot : j = 256#9
  · simp [hroot, Node.kind, (setWidth_nine_ne_256 s).symm]
  · by_cases hleaf : j = s.setWidth 9 <;> simp [hroot, hleaf, setWidth_nine_ne_256 s, Node.kind]

/-- The one-symbol tree is well formed: its root is the one INTERNAL entry without a right child (R34 (c)). -/
theorem SyntheticTree.treeWf (hw : w ≠ 0#32) : TreeWf N 256#9 where
  empty h := absurd h (by decide)
  rootInternal _ := ⟨_, _, _, hN.nodeAt_root⟩
  neverFree _ p j h := by
    rcases hN.reaches_iff.mp h with ⟨-, rfl⟩ | ⟨-, rfl⟩
    · simp [hN.nodeAt_root]
    · simp [hN.nodeAt_leaf]
  once _ hj := hN.existsUnique_path hj
  leftChild i v l r h := by
    obtain ⟨-, -, rfl, -⟩ := hN.eq_of_internal h
    exact hN.leaf_ne_nil
  rightChild i v l h := ⟨(hN.eq_of_internal h).1, hN.leaves_eq_one⟩
  leafPlace i a v h := by
    obtain ⟨rfl, rfl, rfl⟩ := hN.eq_of_leaf h
    exact ⟨rfl, hw⟩
  internalPlace i v l r h := by
    rw [(hN.eq_of_internal h).1]
    decide
  weights i v l r h := by
    obtain ⟨-, rfl, rfl, rfl⟩ := hN.eq_of_internal h
    simp [hN.nodeAt_leaf, Node.weight]
  ordered i v l r h := by
    obtain ⟨rfl, -, rfl, rfl⟩ := hN.eq_of_internal h
    exact ⟨(toNat_setWidth_nine s).trans_lt s.toNat_lt, fun h' => absurd rfl h'⟩

end

/-- BUILD's tree is well formed, and its leaves are the present symbols with their counts (R34, R152). -/
theorem buildTree_spec (f : FreqTable) : TreeWf (buildTree f).1 (buildTree f).2 ∧
    ∀ s w, nodeAt (buildTree f).1 (s.setWidth 9) = .leaf s w ↔ (f.at s ≠ 0#32 ∧ w = f.at s) := by
  have I := initLeaves_inv f
  have hlive := initLeaves_live f
  unfold buildTree
  match hl : (initLeaves f).live with
  | [] =>
    simp only [hl]
    refine ⟨treeWf_nil fun i => ?_, I.leaf⟩
    by_contra hi
    obtain ⟨s, hs, -⟩ := exists_leaf_of_used hi
    simp [List.map_eq_nil_iff.mp (hlive.symm.trans hl)] at hs
  | [k] =>
    simp only [hl]
    obtain ⟨s, hsymbols, rfl⟩ := List.map_eq_singleton_iff.mp (hlive.symm.trans hl)
    have hs : f.at s ≠ 0#32 := mem_presentSymbols.mp (by simp [hsymbols])
    have hfree : ∀ i, i ≠ s.setWidth 9 → nodeAt (initLeaves f).node i = .free := fun i hi => by
      by_contra hi'
      obtain ⟨c, hc, rfl⟩ := exists_leaf_of_used hi'
      rw [hsymbols, List.mem_singleton] at hc
      exact hi (by rw [hc])
    refine ⟨(syntheticTree_putNode ((I.leaf s _).mpr ⟨hs, rfl⟩) hfree).treeWf hs, fun c w => ?_⟩
    have hc : ¬ (256 = (c.setWidth 9 : NodeIdx).toNat ∧ 256 < 511) := by
      have := c.toNat_lt
      rw [toNat_setWidth_nine]
      omega
    rw [nodeAt_putNode, if_neg hc]
    exact I.leaf c w
  | k1 :: k2 :: rest =>
    have hlen : (initLeaves f).live.length ≤ 256 + 1 := by
      have := length_presentSymbols_le f
      rw [hlive, List.length_map]
      omega
    obtain ⟨k, hk, I', hroot⟩ := I.mergeLoop (by simp [hl]) hlen
    have F := I'.forest
    rw [hk] at F
    simp only [hl, hk]
    exact ⟨F.treeWf hroot, I'.leaf⟩

theorem reset_treeWf : TreeWf (Vector.replicate 511 Node.free) NIL := treeWf_nil nodeAt_free

/-- BUILD's write set (R53). -/
theorem buildBody_frame {s t : State} (h : buildBody s = .next t) :
    t = { s with status := t.status, node := t.node, root := t.root } := by
  cases (buildBody_eq s).symm.trans h
  rcases State.flagIf_cases (s.withTree _ _) (s.freq.toList.all (· == 0#32)) EMPTY with e | e <;> rw [e] <;> rfl

/-- Settles O16: the merge loop keeps a forest whose leaves are the present symbols, and ends with one tree. -/
theorem buildMakesAWellFormedTree : Obligations.BuildMakesAWellFormedTree := by
  refine ⟨reset_treeWf, fun s => ?_⟩
  obtain ⟨hwf, hleaf⟩ := buildTree_spec s.freq
  exact ⟨_, buildBody_eq s.clearStatus, by simpa using hwf, by simpa using hleaf, buildBody_frame (s := s.clearStatus) rfl⟩

end Sys2Proof.Machine
end

section
/-! SUPPORT. COUNT and WALK: the counters, and the codes of a tree (41_frequency_counter.md R137, 43_code_table_walker.md
R171 to R173). -/

namespace Sys2Proof.Machine

/-! ### The counters -/

theorem foldl_countByte_at (b : Byte) : ∀ (x : List Byte) (f : FreqTable),
    (x.foldl countByte f).at b = f.at b + BitVec.ofNat 32 (x.count b)
  | [], f => by simp
  | a :: x, f => by
    rw [List.foldl_cons, foldl_countByte_at b x, countByte, Table.at_put, List.count_cons]
    by_cases h : a = b
    · subst h
      simp [BitVec.ofNat_add, BitVec.add_assoc, BitVec.add_comm (1#32)]
    · simp [h]

/-- A counter is the number of occurrences of its byte, modulo the word size. -/
theorem count_at (x : List Byte) (b : Byte) : (count x).at b = BitVec.ofNat 32 (x.count b) := by
  rw [count, foldl_countByte_at, Table.at_replicate, BitVec.zero_add]

/-- In an input shorter than 2^32 bytes the present symbols are those that occur. -/
theorem count_at_ne_zero_iff {x : List Byte} (hx : x.length < 2 ^ 32) {b : Byte} : (count x).at b ≠ 0#32 ↔ b ∈ x := by
  have hle : x.count b ≤ x.length := List.count_le_length
  rw [count_at, ← List.count_pos_iff, Nat.pos_iff_ne_zero, ne_eq, ne_eq, ← BitVec.toNat_inj, BitVec.toNat_ofNat,
    Nat.mod_eq_of_lt (by omega)]
  rfl

theorem total_put (f : FreqTable) (b : Byte) (v : Word) :
    total (f.put b v) + (f.at b).toNat = total f + v.toNat := by
  have hb : b.toNat < f.toList.length := by simpa using b.toNat_lt
  have hsplit : f.toList = f.toList.take b.toNat ++ f.at b :: f.toList.drop (b.toNat + 1) := by
    rw [show f.at b = f.toList[b.toNat] from rfl, ← List.drop_eq_getElem_cons hb, List.take_append_drop]
  have hput : (f.put b v).toList = f.toList.take b.toNat ++ v :: f.toList.drop (b.toNat + 1) := by
    rw [Table.put, Vector.toList_set, List.set_eq_take_append_cons_drop, if_pos hb]
  rw [total, total, hput]
  conv_rhs => rw [hsplit]
  simp only [List.map_append, List.map_cons, List.sum_append, List.sum_cons]
  omega

theorem total_countByte_le (f : FreqTable) (b : Byte) : total (countByte f b) ≤ total f + 1 := by
  have h := total_put f b (f.at b + 1#32)
  have hle : (f.at b + 1#32).toNat ≤ (f.at b).toNat + 1 := by
    rw [BitVec.toNat_add]
    exact Nat.mod_le _ _
  rw [countByte]
  omega

theorem total_foldl_countByte_le : ∀ (x : List Byte) (f : FreqTable), total (x.foldl countByte f) ≤ total f + x.length
  | [], f => Nat.le_refl _
  | b :: x, f => by
    have h1 := total_foldl_countByte_le x (countByte f b)
    have h2 := total_countByte_le f b
    rw [List.foldl_cons, List.length_cons]
    omega

theorem total_zero : total (Vector.replicate 256 0#32) = 0 := by
  rw [total, Vector.toList_replicate, List.map_replicate, List.sum_replicate]
  rfl

/-- The counters never sum to more than the number of bytes counted (R138). -/
theorem total_count_le (x : List Byte) : total (count x) ≤ x.length := by
  have h := total_foldl_countByte_le x (Vector.replicate 256 0#32)
  rw [total_zero] at h
  rw [count]
  omega

theorem present_le (f : FreqTable) : present f ≤ 256 :=
  List.countP_le_length.trans_eq Vector.length_toList

theorem present_zero : present (Vector.replicate 256 0#32) = 0 := by
  rw [present, Vector.toList_replicate, List.countP_replicate]
  rfl

/-- UNIQUE holds the number of present symbols without loss (10_state.md R30). -/
theorem toNat_ofNat_present (f : FreqTable) : (BitVec.ofNat 9 (present f)).toNat = present f := by
  have := present_le f
  rw [BitVec.toNat_ofNat, Nat.mod_eq_of_lt (by omega)]

theorem all_zero_iff (f : FreqTable) : f.toList.all (· == 0#32) = true ↔ ∀ b, f.at b = 0#32 := by
  simp only [List.all_eq_true, Vector.mem_toList_iff, beq_iff_eq]
  constructor
  · exact fun h b => h _ (Vector.getElem_mem _)
  · intro h w hw
    obtain ⟨i, hi, rfl⟩ := Vector.mem_iff_getElem.mp hw
    have := h (BitVec.ofNat 8 i)
    simpa [Table.at, Nat.mod_eq_of_lt hi] using this

/-! ### The codes of a tree -/

/-- In a well-formed tree a code below index `i` is at most one bit longer, for each index from 256 up to `i`, than the path
to `i` (R171). -/
theorem TreeWf.length_of_mem_paths {N : Arena} {root : NodeIdx} (T : TreeWf N root) {s : Byte} {c : Code} :
    ∀ {n : Nat} {i : NodeIdx} {p : Bits}, (s, c) ∈ paths n N i p →
      1 ≤ c.length ∧ c.length ≤ max 1 (p.length + (i.toNat - 255))
  | 0, i, p, h => by simp [paths] at h
  | n + 1, i, p, h => by
    rw [paths] at h
    split at h
    · simp at h
    · split at h
      · simp at h
      · obtain ⟨-, rfl⟩ := Prod.mk.inj (List.mem_singleton.mp h)
        cases p <;> simp
      · rename_i w l r hi
        have hplace := T.internalPlace i w l r hi
        obtain ⟨hl, hr⟩ := T.ordered i w l r hi
        rcases List.mem_append.mp h with h | h
        · have ih := T.length_of_mem_paths h
          simp only [List.length_append, List.length_singleton] at ih
          omega
        · have hr : r.toNat < i.toNat := hr fun hr => by
            subst hr
            cases n <;> simp [paths] at h
          have ih := T.length_of_mem_paths h
          simp only [List.length_append, List.length_singleton] at ih
          omega

theorem TreeWf.length_of_mem_codes {N : Arena} {root : NodeIdx} (T : TreeWf N root) {s : Byte} {c : Code}
    (h : (s, c) ∈ codes N root) : Code.wf c = true := by
  have hroot : root.toNat ≤ 510 := by
    have hne : root ≠ NIL := by
      rintro rfl
      simp [codes, paths] at h
    have hlt := root.isLt
    have : root.toNat ≠ 511 := fun h' => hne (BitVec.eq_of_toNat_eq h')
    omega
  have hlen := T.length_of_mem_paths h
  simp only [List.length_nil] at hlen
  rw [Code.wf_iff]
  omega

/-- In a well-formed tree the walk from `i` reaches every leaf that a path from `i` reaches, once `n` exceeds the index. -/
theorem TreeWf.exists_mem_paths {N : Arena} {root : NodeIdx} (T : TreeWf N root) {s : Byte} {w : Word} {j : NodeIdx}
    (hj : nodeAt N j = .leaf s w) : ∀ {q : Bits} {n : Nat} {i : NodeIdx} (p : Bits), Reaches N i q j → i.toNat < n →
      ∃ c, (s, c) ∈ paths n N i p
  | [], n + 1, i, p, h, _ => by
    obtain rfl := reaches_nil_iff.mp h
    have hne : i ≠ NIL := ne_nil_of_used (N := N) (by simp [hj])
    exact ⟨_, by simp [paths, hne, hj]; rfl⟩
  | b :: q, n + 1, i, p, h, hn => by
    obtain ⟨v, l, r, hi, hc, t⟩ := reaches_cons_iff.mp h
    have hne : i ≠ NIL := ne_nil_of_used (N := N) (by simp [hi])
    obtain ⟨hl, hr⟩ := T.ordered i v l r hi
    cases b with
    | false =>
      obtain ⟨c, hmem⟩ := T.exists_mem_paths hj (p ++ [false]) t (show l.toNat < n by omega)
      exact ⟨c, by simpa [paths, hne, hi] using .inl hmem⟩
    | true =>
      have hr : r.toNat < i.toNat := hr hc
      obtain ⟨c, hmem⟩ := T.exists_mem_paths hj (p ++ [true]) t (show r.toNat < n by omega)
      exact ⟨c, by simpa [paths, hne, hi] using .inr hmem⟩

/-! ### The table of a list of pairs -/

theorem foldl_put_eq_some {s : Byte} {c : Code} : ∀ {ps : List (Byte × Code)} {t : CodeTable},
    (ps.foldl (fun t (q : Byte × Code) => t.put q.1 (some q.2)) t).at s = some c → (s, c) ∈ ps ∨ t.at s = some c
  | [], t, h => .inr h
  | (a, d) :: ps, t, h => by
    rcases foldl_put_eq_some (ps := ps) h with h | h
    · exact .inl (List.mem_cons_of_mem _ h)
    · rw [Table.at_put] at h
      split at h
      · rename_i has
        cases h
        exact .inl (has ▸ List.mem_cons_self)
      · exact .inr h

theorem foldl_put_isSome {s : Byte} : ∀ {ps : List (Byte × Code)} {t : CodeTable},
    (∃ c, (s, c) ∈ ps) ∨ (t.at s).isSome = true →
      ((ps.foldl (fun t (q : Byte × Code) => t.put q.1 (some q.2)) t).at s).isSome = true
  | [], t, h => by simpa using h
  | (a, d) :: ps, t, h => by
    refine foldl_put_isSome (ps := ps) ?_
    rw [Table.at_put]
    by_cases has : a = s
    · simp [has]
    · simp only [if_neg has]
      rcases h with ⟨c, h⟩ | h
      · rcases List.mem_cons.mp h with h | h
        · exact absurd (Prod.mk.inj h).1.symm has
        · exact .inl ⟨c, h⟩
      · exact .inr h

theorem mem_of_tableOf_at {ps : List (Byte × Code)} {s : Byte} {c : Code} (h : (tableOf ps).at s = some c) :
    (s, c) ∈ ps := by
  rcases foldl_put_eq_some h with h | h
  · exact h
  · simp [emptyTable] at h

theorem tableOf_at_isSome {ps : List (Byte × Code)} {s : Byte} {c : Code} (h : (s, c) ∈ ps) :
    ((tableOf ps).at s).isSome = true := foldl_put_isSome (.inl ⟨c, h⟩)

/-- WALK's table of a well-formed tree holds codes of 1 to 255 bits (R173). -/
theorem TreeWf.walkTable_wf {N : Arena} {root : NodeIdx} (T : TreeWf N root) : (walkTable N root).wf = true :=
  CodeTable.wf_iff.mpr fun _ _ h => T.length_of_mem_codes (mem_of_tableOf_at h)

/-- WALK's table of a well-formed tree has an entry for the symbol of every leaf (R173). -/
theorem TreeWf.walkTable_at_isSome {N : Arena} {root j : NodeIdx} {s : Byte} {w : Word} (T : TreeWf N root)
    (h : nodeAt N j = .leaf s w) : ((walkTable N root).at s).isSome = true := by
  obtain ⟨q, hq, -⟩ := T.once j (by simp [h])
  obtain ⟨c, hc⟩ := T.exists_mem_paths h [] hq root.isLt
  exact tableOf_at_isSome hc

/-- The tree is empty exactly when no symbol is present (42_tree_builder.md R154). -/
theorem buildTree_root_eq_nil_iff (f : FreqTable) : (buildTree f).2 = NIL ↔ ∀ b, f.at b = 0#32 := by
  obtain ⟨T, hleaf⟩ := buildTree_spec f
  constructor
  · intro h b
    by_contra hb
    have := (hleaf b _).mpr ⟨hb, rfl⟩
    rw [T.empty h] at this
    cases this
  · intro h
    have hempty : initLeaves f = { node := (initLeaves f).node, live := [], next := (initLeaves f).next } := by
      have : presentSymbols f = [] := List.eq_nil_iff_forall_not_mem.mpr fun s hs => mem_presentSymbols.mp hs (h s)
      have hlive : (initLeaves f).live = [] := by rw [initLeaves_live, this, List.map_nil]
      rw [← hlive]
    rw [buildTree, hempty]

end Sys2Proof.Machine
end

section
/-! SUPPORT. The compounds as one stage (47_session_commands.md R261 to R266): ENCODE is EMIT on the tables of its input, UNPACK
is the table-walk of what IMPORT left. -/

namespace Sys2Proof.Machine

/-! ### EMIT's loop -/

theorem emitFrom_unknown_of_covers {t : CodeTable} : ∀ {x : List Byte} {i : Nat}, Covers t x →
    (emitFrom t i x).unknown = none
  | [], _, _ => rfl
  | b :: x, i, h => by
    obtain ⟨d, hd⟩ := Option.isSome_iff_exists.mp (h b List.mem_cons_self)
    simp only [emitFrom, hd]
    exact emitFrom_unknown_of_covers fun a ha => h a (List.mem_cons_of_mem _ ha)

theorem length_emitFrom_le {t : CodeTable} (ht : t.wf = true) : ∀ (x : List Byte) (i : Nat),
    (emitFrom t i x).bits.length ≤ 255 * x.length
  | [], _ => Nat.le_refl _
  | b :: x, i => by
    have ih := length_emitFrom_le ht x (i + 1)
    simp only [emitFrom]
    cases hb : t.at b with
    | none => exact Nat.zero_le _
    | some d =>
      have hd := (Code.wf_iff.mp (CodeTable.wf_iff.mp ht b d hb)).2
      simp only [List.length_append, List.length_cons]
      omega

/-! ### ENCODE -/

section
variable (s : State)

/-- The tables that COUNT, BUILD and WALK make from IN[0..IN_LEN). -/
def State.withTables (s : State) : State :=
  ((s.withFreq (count s.inputBytes) (BitVec.ofNat 9 (present (count s.inputBytes)))).withTree
    (buildTree (count s.inputBytes)).1 (buildTree (count s.inputBytes)).2).withCode
    (walkTable (buildTree (count s.inputBytes)).1 (buildTree (count s.inputBytes)).2)

@[simp] theorem State.withTables_status : s.withTables.status = s.status := rfl

theorem count_inputBytes_at_ne_zero_iff {b : Byte} : (count s.inputBytes).at b ≠ 0#32 ↔ b ∈ s.inputBytes :=
  count_at_ne_zero_iff (by simpa using s.inLen.isLt)

theorem count_inputBytes_eq_zero_iff : (∀ b, (count s.inputBytes).at b = 0#32) ↔ s.inLen = 0#32 := by
  have hlen : s.inputBytes = [] ↔ s.inLen = 0#32 := by
    rw [← List.length_eq_zero_iff, length_inputBytes, ← BitVec.toNat_inj]
    rfl
  rw [← hlen, List.eq_nil_iff_forall_not_mem]
  exact forall_congr' fun b => by rw [← count_inputBytes_at_ne_zero_iff, not_not]

/-- Every byte of the input has a code in the table of its own tree (44_bitstream_encoder.md R194). -/
theorem covers_withTables : Covers s.withTables.code s.inputBytes := fun b hb => by
  obtain ⟨T, hleaf⟩ := buildTree_spec (count s.inputBytes)
  exact T.walkTable_at_isSome ((hleaf b _).mpr ⟨(count_inputBytes_at_ne_zero_iff s).mpr hb, rfl⟩)

end

section
variable {s : State}

/-- The stages COUNT, BUILD and WALK agree on EMPTY, and none of them ends the compound (R262, R263). -/
theorem encodeBody_eq_emitBody (P : Params) (hs : s.status = 0#8) (h : s.inSize ≤ s.cfgMaxInput.toNat) :
    encodeBody P s = emitBody P (s.withTables.flagIf (s.inLen == 0#32) EMPTY) := by
  have hcount : countBody s = .next ((s.withFreq (count s.inputBytes)
      (BitVec.ofNat 9 (present (count s.inputBytes)))).flagIf (s.inLen == 0#32) EMPTY) := bounded_of_le _ h
  have hfatal : ∀ u : State, u.status = 0#8 → (u.flagIf (s.inLen == 0#32) EMPTY).fatal = false := fun u hu =>
    State.fatal_flagIf _ (by simp [State.fatal, hu]) rfl
  have hzero : (count s.inputBytes).toList.all (· == 0#32) = (s.inLen == 0#32) := by
    rw [Bool.eq_iff_iff, all_zero_iff, beq_iff_eq, count_inputBytes_eq_zero_iff]
  have hroot : ((buildTree (count s.inputBytes)).2 == NIL) = (s.inLen == 0#32) := by
    rw [Bool.eq_iff_iff, beq_iff_eq, beq_iff_eq, buildTree_root_eq_nil_iff, count_inputBytes_eq_zero_iff]
  rcases encodeBody_cases P s with ⟨h', -⟩ | ⟨-, e⟩
  · omega
  · rw [e, hcount, andThen_next _ (hfatal _ ?_), buildBody_eq]
    simp only [State.flagIf_freq, State.withFreq_freq, hzero, State.withTree_flagIf, State.flagIf_flagIf]
    rw [andThen_next _ (hfatal _ ?_), walkBody_eq]
    simp only [State.flagIf_node, State.flagIf_root, State.withTree_node, State.withTree_root, hroot,
      State.withCode_flagIf, State.flagIf_flagIf]
    rw [andThen_next _ (hfatal _ ?_)]
    · rfl
    all_goals exact hs

/-- The state a completed ENCODE leaves (R263). -/
def State.encoded (s : State) : State :=
  ((s.withTables.withBits (emit s.withTables.code s.inputBytes).bits).withStats (BitVec.ofNat 32 (8 * s.inLen.toNat))
    (BitVec.ofNat 32 (emit s.withTables.code s.inputBytes).bits.length)
    (BitVec.ofInt 32 (ratioOf (8 * s.inLen.toNat) (emit s.withTables.code s.inputBytes).bits.length))).flagIf
    (s.inLen == 0#32) EMPTY

/-- ENCODE from STATUS 0, once its capacity check has passed, is the room check and one update: it never meets an unmapped
symbol (R194). -/
theorem encodeBody_eq_fitting (P : Params) (hs : s.status = 0#8) (h : s.inSize ≤ s.cfgMaxInput.toNat) :
    encodeBody P s = fitting .bits P.bitsCap (emit s.withTables.code s.inputBytes).bits.length (.next s.encoded) := by
  have hlen : s.withTables.inLen = s.inLen := rfl
  have hin : s.withTables.inputBytes = s.inputBytes := rfl
  have hbound : (s.withTables.flagIf (s.inLen == 0#32) EMPTY).inSize ≤
      (s.withTables.flagIf (s.inLen == 0#32) EMPTY).cfgMaxInput.toNat := by
    rwa [State.inSize, State.flagIf_inLen, hlen, State.flagIf_cfgMaxInput]
  have hnone : (emit s.withTables.code s.inputBytes).unknown = none := emitFrom_unknown_of_covers (covers_withTables s)
  rw [encodeBody_eq_emitBody P hs h, emitBody, bounded_of_le _ hbound]
  simp only [State.flagIf_code, State.inputBytes_flagIf, hin, State.flagIf_inLen, hlen, hnone, State.withBits_flagIf,
    State.withStats_flagIf, State.flagIf_flagIf]
  rfl

/-- ENCODE from STATUS 0 raises CAPACITY, is refused for want of room, or writes the tables, the payload and the
statistics. -/
theorem encodeBody_outcome (P : Params) (hs : s.status = 0#8) :
    (s.cfgMaxInput.toNat < s.inSize ∧ encodeBody P s = .next (s.flag CAPACITY)) ∨
      (s.inSize ≤ s.cfgMaxInput.toNat ∧ P.bitsCap < (emit s.withTables.code s.inputBytes).bits.length ∧
        encodeBody P s = .refused (.bufferOverflow .bits)) ∨
      (s.inSize ≤ s.cfgMaxInput.toNat ∧ (emit s.withTables.code s.inputBytes).bits.length ≤ P.bitsCap ∧
        encodeBody P s = .next s.encoded) := by
  rcases encodeBody_cases P s with ⟨h, e⟩ | ⟨h, -⟩
  · exact .inl ⟨h, e⟩
  · rw [encodeBody_eq_fitting P hs h]
    by_cases hfit : P.bitsCap < (emit s.withTables.code s.inputBytes).bits.length
    · exact .inr (.inl ⟨h, hfit, fitting_of_lt _ hfit⟩)
    · exact .inr (.inr ⟨h, not_lt.mp hfit, fitting_of_le _ (not_lt.mp hfit)⟩)

end

/-! ### UNPACK -/

theorem parseContainer_eq_some {P : Params} {blob : List Byte} {t : CodeTable} {b : Bits}
    (h : parseContainer P blob = some (t, b)) : 8 ≤ blob.length ∧ ∃ l,
      P.tbl.par ((blob.drop 8).take l) = some t ∧ b = unpack (blob.drop (8 + l)) := by
  unfold parseContainer at h
  dsimp only at h
  split_ifs at h with h1 h2 h3
  cases hp : P.tbl.par ((blob.drop 8).take (unle ((blob.drop 4).take 4))) with
  | none => simp [hp] at h
  | some u =>
    simp only [hp, Option.some.injEq, Prod.mk.injEq] at h
    obtain ⟨rfl, rfl⟩ := h
    exact ⟨by omega, _, hp, rfl⟩

/-- IMPORT writes at most eight bits for each byte of the blob (46_container_codec.md R245, R246). -/
theorem length_imported_le (P : Params) (s : State) : (imported P s).2.1.length ≤ 8 * s.blobLen.toNat := by
  unfold imported
  cases h : parseContainer P s.blobBytes with
  | none => simp
  | some q =>
    obtain ⟨-, l, -, hb⟩ := parseContainer_eq_some (t := q.1) (b := q.2) h
    simp only [hb, length_unpack, List.length_drop, length_blobBytes]
    omega

/-- IMPORT writes a table of codes of 1 to 255 bits (R232 (d), R246). -/
theorem imported_code_wf {P : Params} (hP : P.tbl.Lawful) (s : State) : (imported P s).1.wf = true := by
  unfold imported
  cases h : parseContainer P s.blobBytes with
  | none => exact emptyTable_wf
  | some q =>
    obtain ⟨-, l, ht, -⟩ := parseContainer_eq_some (t := q.1) (b := q.2) h
    exact hP.parsesTables _ _ ht

/-- The state a completed IMPORT leaves (R245, R246). -/
def State.withImported (P : Params) (s : State) : State :=
  (((s.withCode (imported P s).1).withBits (imported P s).2.1).flagIf (imported P s).2.2 DEGRADED).flagIf
    (s.blobLen == 0#32) EMPTY

/-- IMPORT is the capacity check, the room check and one update. -/
theorem importBody_eq (P : Params) (s : State) : importBody P s = bounded s.blobSize (fun s =>
    fitting .bits P.bitsCap (imported P s).2.1.length (.next (s.withImported P))) s := by
  rw [importBody]
  congr 1
  funext s
  rw [State.withImported, imported]
  cases parseContainer P s.blobBytes <;> rfl

section
variable {P : Params} {s : State}

/-- UNPACK from STATUS 0, once its own capacity check has passed, decodes what it imported: its second stage always passes the
capacity check (R261, R266). -/
theorem unpackBody_eq_emitDecoded (hP : P.bitsCap < 2 ^ 32) (hs : s.status = 0#8)
    (h : s.blobSize ≤ s.cfgMaxInput.toNat) : unpackBody P s = fitting .bits P.bitsCap (imported P s).2.1.length
      (emitDecoded P (dect (imported P s).1 (imported P s).2.1) (s.withImported P)) := by
  have hbody : unpackBody P s = andThen (importBody P s) (dectBody P) := bounded_of_le _ h
  rw [hbody, importBody_eq, bounded_of_le _ h]
  by_cases hfit : P.bitsCap < (imported P s).2.1.length
  · rw [fitting_of_lt _ hfit, fitting_of_lt _ hfit]
    rfl
  · rw [fitting_of_le _ (not_lt.mp hfit), fitting_of_le _ (not_lt.mp hfit)]
    have hfatal : (s.withImported P).fatal = false :=
      State.fatal_flagIf _ (State.fatal_flagIf _ (by simp [State.fatal, hs]) rfl) rfl
    have hpayload : (s.withImported P).payload = (imported P s).2.1 := by
      simp only [State.withImported, State.payload_flagIf]
      exact withBits_payload _ _ (by omega)
    have hcode : (s.withImported P).code = (imported P s).1 := by simp [State.withImported]
    have hbound : (s.withImported P).bitsSize ≤ (s.withImported P).cfgMaxInput.toNat := by
      have hle := length_imported_le P s
      simp only [State.blobSize] at h
      simp only [State.bitsSize, State.withImported, State.flagIf_bitsLen, State.withBits_bitsLen, BitVec.toNat_ofNat,
        State.flagIf_cfgMaxInput, State.withBits_cfgMaxInput, State.withCode_cfgMaxInput, ceil8]
      omega
    rw [andThen_next _ hfatal, dectBody, bounded_of_le _ hbound, hcode, hpayload]

/-- UNPACK from STATUS 0 raises CAPACITY, is refused for want of room, or decodes what it imported. -/
theorem unpackBody_outcome (hP : P.bitsCap < 2 ^ 32) (hs : s.status = 0#8) :
    (s.cfgMaxInput.toNat < s.blobSize ∧ unpackBody P s = .next (s.flag CAPACITY)) ∨
      (s.blobSize ≤ s.cfgMaxInput.toNat ∧ P.bitsCap < (imported P s).2.1.length ∧
        unpackBody P s = .refused (.bufferOverflow .bits)) ∨
      (s.blobSize ≤ s.cfgMaxInput.toNat ∧ (imported P s).2.1.length ≤ P.bitsCap ∧
        unpackBody P s = emitDecoded P (dect (imported P s).1 (imported P s).2.1) (s.withImported P)) := by
  rcases unpackBody_cases P s with ⟨h, e⟩ | ⟨h, -⟩
  · exact .inl ⟨h, e⟩
  · rw [unpackBody_eq_emitDecoded hP hs h]
    by_cases hfit : P.bitsCap < (imported P s).2.1.length
    · exact .inr (.inl ⟨h, hfit, fitting_of_lt _ hfit⟩)
    · exact .inr (.inr ⟨h, not_lt.mp hfit, fitting_of_le _ (not_lt.mp hfit)⟩)

end

end Sys2Proof.Machine
end

section
/-! SUPPORT. The invariant (10_state.md R52) of legal parameters holds after reset, and every step keeps it. -/

namespace Sys2Proof.Machine

/-! ### The arithmetic of the statistics (10_state.md R43) -/

/-- A payload of at most 255 bits a byte keeps the ratio far inside a signed word (44_bitstream_encoder.md R192). -/
theorem ratioOf_bounds {n e : Nat} (h : e ≤ 255 * n) : -308750 ≤ ratioOf (8 * n) e ∧ ratioOf (8 * n) e ≤ 10000 := by
  unfold ratioOf
  split
  · omega
  · have hpos : (0 : Int) < ((8 * n : Nat) : Int) := by omega
    rw [Int.fdiv_eq_ediv_of_nonneg _ hpos.le]
    constructor
    · rw [Int.le_ediv_iff_mul_le hpos]
      omega
    · exact Int.ediv_le_of_le_mul hpos (by omega)

theorem toInt_ofInt_ratioOf {n e : Nat} (h : e ≤ 255 * n) :
    (BitVec.ofInt 32 (ratioOf (8 * n) e)).toInt = ratioOf (8 * n) e := by
  have hbounds := ratioOf_bounds h
  rw [BitVec.toInt_ofInt, Int.bmod_eq_of_le] <;> omega

/-! ### The host's writes of CODE and BITS -/

theorem unpack_take_length {bs : List Byte} (h : bs.length = 32) (l : Byte) :
    ((unpack bs).take l.toNat).length = l.toNat := by
  have := l.toNat_lt
  rw [List.length_take, length_unpack]
  omega

/-- A record of 33 bytes sets an absent entry or a code of 1 to 255 bits (10_state.md R36). -/
theorem ofRecord_wf {r : List Byte} (h : r.length = 33) : Code.entryWf (ofRecord r) = true := by
  match r with
  | l :: bs =>
    rw [ofRecord]
    split
    · rfl
    · rename_i hl
      have hl' : l.toNat ≠ 0 := fun e => hl (BitVec.eq_of_toNat_eq e)
      have := l.toNat_lt
      rw [Code.entryWf, Code.wf_iff, unpack_take_length (by simpa using h)]
      omega

theorem wf_put_entry {t : CodeTable} {e : Option Code} (b : Byte) (ht : t.wf = true) (he : Code.entryWf e = true) :
    CodeTable.wf (t.put b e) = true := by
  rw [CodeTable.wf_iff] at ht ⊢
  intro a c h
  rw [Table.at_put] at h
  split at h
  · rwa [h] at he
  · exact ht a c h

theorem writeBits_wf {cap : Nat} (j : Nat) (v : Byte) {m : List (Nat × Bool)} (h : Mem.wf cap m = true) :
    Mem.wf cap (writeBits cap j v m) = true :=
  List.foldlRecOn (motive := fun m => Mem.wf cap m = true) _ _ h fun m hm k _ => by
    split
    · exact Mem.write_wf _ _ ‹_› hm
    · exact hm

/-! ### What each update needs to keep the invariant -/

section
variable {P : Params} {s t : State}

theorem InvAt.withStatus {v : BitVec 8} (h : InvAt P s) (hv : v ∈ statusValues) : InvAt P { s with status := v } :=
  { h with status := hv }

theorem InvAt.clearStatus (h : InvAt P s) : InvAt P s.clearStatus := h.withStatus (by decide)

theorem InvAt.flag {f : BitVec 8} (h : InvAt P s) (hf : s.status ||| f ∈ statusValues) : InvAt P (s.flag f) :=
  h.withStatus hf

theorem InvAt.flagIf {f : BitVec 8} (h : InvAt P s) (c : Bool) (hf : s.status ||| f ∈ statusValues) :
    InvAt P (s.flagIf c f) := by
  cases c
  · exact h
  · exact h.flag hf

/-- From STATUS 0 a flag that is a STATUS value of its own may be set. -/
theorem InvAt.flagIf_of_clear {f : BitVec 8} (h : InvAt P s) (hs : s.status = 0#8) (c : Bool) (hf : f ∈ statusValues) :
    InvAt P (s.flagIf c f) :=
  h.flagIf c (by rwa [hs, BitVec.zero_or])

theorem InvAt.flag_capacity (h : InvAt P s) (hs : s.status = 0#8) : InvAt P (s.flag CAPACITY) :=
  h.flagIf_of_clear hs true (by decide)

theorem InvAt.accept (h : InvAt P s) (rest : List HostOp) : InvAt P (s.accept rest) := { h with }

theorem InvAt.respond (h : InvAt P s) (e : Elem) : InvAt P (s.respond e) := { h with }

theorem InvAt.withFreq {f : FreqTable} (h : InvAt P s) (hf : total f ≤ 2 ^ 28 - 1) :
    InvAt P (s.withFreq f (BitVec.ofNat 9 (present f))) :=
  { h with unique := toNat_ofNat_present f, counted := hf }

theorem InvAt.withTree {N : Arena} {r : NodeIdx} (h : InvAt P s) (T : TreeWf N r) : InvAt P (s.withTree N r) :=
  { h with tree := T }

theorem InvAt.withCode {c : CodeTable} (h : InvAt P s) (hc : c.wf = true) : InvAt P (s.withCode c) :=
  { h with code := hc }

theorem InvAt.withBits {b : Bits} (h : InvAt P s) (hb : b.length ≤ P.bitsCap) : InvAt P (s.withBits b) :=
  { h with bits := Mem.replace_wf b _ hb h.bits }

theorem InvAt.withBlob {l : List Byte} (h : InvAt P s) (hl : l.length ≤ P.blobCap) : InvAt P (s.withBlob l) :=
  { h with blob := Mem.replace_wf l _ hl h.blob }

theorem InvAt.withOut {l : List Byte} (h : InvAt P s) (hl : l.length ≤ P.outCap) : InvAt P (s.withOut l) :=
  { h with
    out := Mem.replace_wf l _ hl h.out
    decoded := fun i hi => by
      have hlt : i < l.length := hi.trans_le (by simpa using Nat.mod_le _ _)
      simp [Mem.lookup_replace, hlt] }

theorem InvAt.withStats {n e : Nat} (h : InvAt P s) (hn : n < 2 ^ 29) (he : e < 2 ^ 32) (hle : e ≤ 255 * n) :
    InvAt P (s.withStats (BitVec.ofNat 32 (8 * n)) (BitVec.ofNat 32 e) (BitVec.ofInt 32 (ratioOf (8 * n) e))) :=
  { h with
    stats := by
      simp only [State.withStats_ratioX100, State.withStats_origBits, State.withStats_encBits, BitVec.toNat_ofNat]
      rw [Nat.mod_eq_of_lt (by omega), Nat.mod_eq_of_lt he, toInt_ofInt_ratioOf hle] }

theorem InvAt.dropBits (h : InvAt P s) : InvAt P s.dropBits := { h with bits := rfl }

theorem InvAt.withErr (h : InvAt P s) (y : Byte) (p : Word) : InvAt P (s.withErr y p) := { h with }

theorem stats_zero : (0#32 : Word).toInt = ratioOf (0#32 : Word).toNat (0#32 : Word).toNat := by decide

theorem InvAt.clearSession (h : InvAt P s) : InvAt P s.clearSession :=
  { h with
    unique := present_zero.symm
    counted := total_zero.le.trans (Nat.zero_le _)
    tree := reset_treeWf
    code := emptyTable_wf
    stats := stats_zero
    decoded := fun i hi => absurd hi (Nat.not_lt_zero i) }

/-! ### The commands -/

theorem sresetBody_keeps (h : InvAt P s) (ht : sresetBody s = .next t) : InvAt P t := by
  cases ht
  exact h.clearSession

/-- The bound and its limit keep the counted input short (41_frequency_counter.md R138). -/
theorem InvAt.inLen_le (h : InvAt P s) (hP : P.Legal) (hin : s.inSize ≤ s.cfgMaxInput.toNat) :
    s.inLen.toNat ≤ 2 ^ 28 - 1 := (hin.trans h.cfg).trans hP.limit

theorem InvAt.total_count_le (h : InvAt P s) (hP : P.Legal) (hin : s.inSize ≤ s.cfgMaxInput.toNat) :
    total (count s.inputBytes) ≤ 2 ^ 28 - 1 :=
  (Machine.total_count_le _).trans ((length_inputBytes s).trans_le (h.inLen_le hP hin))

theorem countBody_keeps (hP : P.Legal) (h : InvAt P s) (hs : s.status = 0#8) (ht : countBody s = .next t) : InvAt P t := by
  rcases countBody_cases s with ⟨-, e⟩ | ⟨hin, e⟩ <;> cases e.symm.trans ht
  · exact h.flag_capacity hs
  · exact (h.withFreq (h.total_count_le hP hin)).flagIf_of_clear hs _ (by decide)

theorem buildBody_keeps (h : InvAt P s) (hs : s.status = 0#8) (ht : buildBody s = .next t) : InvAt P t := by
  cases (buildBody_eq s).symm.trans ht
  exact (h.withTree (buildTree_spec s.freq).1).flagIf_of_clear hs _ (by decide)

theorem walkBody_keeps (h : InvAt P s) (hs : s.status = 0#8) (ht : walkBody s = .next t) : InvAt P t := by
  cases (walkBody_eq s).symm.trans ht
  exact (h.withCode h.tree.walkTable_wf).flagIf_of_clear hs _ (by decide)

/-- The payload and the statistics of an input `x` of `n` bytes keep the invariant. -/
theorem InvAt.withPayload {x : List Byte} {n : Nat} (h : InvAt P s) (hP : P.Legal) (hx : x.length = n)
    (hn : n ≤ 2 ^ 28 - 1) (hfit : (emit s.code x).bits.length ≤ P.bitsCap) :
    InvAt P ((s.withBits (emit s.code x).bits).withStats (BitVec.ofNat 32 (8 * n))
      (BitVec.ofNat 32 (emit s.code x).bits.length) (BitVec.ofInt 32 (ratioOf (8 * n) (emit s.code x).bits.length))) := by
  have hcap := hP.bitsCapHigh
  have hbits := length_emitFrom_le h.code x 0
  rw [hx] at hbits
  exact (h.withBits hfit).withStats (by omega) (by omega) hbits

theorem emitBody_keeps (hP : P.Legal) (h : InvAt P s) (hs : s.status = 0#8) (ht : emitBody P s = .next t) :
    InvAt P t := by
  rcases emitBody_cases P s with ⟨-, e⟩ | ⟨-, -, e⟩ | ⟨-, -, sym, pos, -, e⟩ | ⟨hin, hfit, -, e⟩ <;>
    cases e.symm.trans ht
  · exact h.flag_capacity hs
  · exact (h.dropBits.withErr sym _).flagIf_of_clear hs true (by decide)
  · exact (h.withPayload hP (length_inputBytes s) (h.inLen_le hP hin) hfit).flagIf_of_clear hs _ (by decide)

theorem emitDecoded_keeps {l : List Byte} (h : InvAt P s) (hs : s.status ||| EMPTY ∈ statusValues)
    (ht : emitDecoded P l s = .next t) : InvAt P t := by
  rcases emitDecoded_cases P l s with ⟨-, e⟩ | ⟨hfit, e⟩ <;> cases e.symm.trans ht
  exact (h.withOut hfit).flagIf _ hs

/-- DECT and DECR keep the invariant, whatever bytes `l` they decode. -/
theorem decode_keeps {l : List Byte} (h : InvAt P s) (hs : s.status = 0#8)
    (ht : bounded s.bitsSize (emitDecoded P l) s = .next t) : InvAt P t := by
  rcases bounded_cases s.bitsSize (emitDecoded P l) s with ⟨-, e⟩ | ⟨-, e⟩
  · cases e.symm.trans ht
    exact h.flag_capacity hs
  · exact emitDecoded_keeps h (by rw [hs]; decide) (e.symm.trans ht)

theorem exportBody_keeps (h : InvAt P s) (hs : s.status = 0#8) (ht : exportBody P s = .next t) : InvAt P t := by
  rcases exportBody_cases P s with ⟨-, e⟩ | ⟨-, -, e⟩ | ⟨-, hfit, e⟩ <;> cases e.symm.trans ht
  · exact h.flag_capacity hs
  · exact (h.withBlob hfit).flagIf_of_clear hs _ (by decide)

/-- IMPORT's flags from STATUS 0, and EMPTY once more, stay within the seven values. -/
theorem withImported_status (hs : s.status = 0#8) : (s.withImported P).status ∈ statusValues ∧
    (s.withImported P).status ||| EMPTY ∈ statusValues := by
  simp only [State.withImported, State.flagIf_status, State.withBits_status, State.withCode_status, hs]
  cases (imported P s).2.2 <;> cases s.blobLen == 0#32 <;> decide

theorem InvAt.withImported (h : InvAt P s) (hP : P.Legal) (hs : s.status = 0#8)
    (hfit : (imported P s).2.1.length ≤ P.bitsCap) : InvAt P (s.withImported P) := by
  have hdata : InvAt P ((s.withCode (imported P s).1).withBits (imported P s).2.1) :=
    (h.withCode (imported_code_wf hP.tbl s)).withBits hfit
  refine (hdata.flagIf_of_clear hs _ (by decide)).flagIf _ ?_
  rw [State.flagIf_status, State.withBits_status, State.withCode_status, hs]
  split <;> decide

theorem importBody_keeps (hP : P.Legal) (h : InvAt P s) (hs : s.status = 0#8) (ht : importBody P s = .next t) :
    InvAt P t := by
  rcases importBody_cases P s with ⟨-, e⟩ | ⟨-, -, e⟩ | ⟨-, hfit, e⟩ <;> cases e.symm.trans ht
  · exact h.flag_capacity hs
  · exact h.withImported hP hs hfit

theorem InvAt.withTables (h : InvAt P s) (hP : P.Legal) (hin : s.inSize ≤ s.cfgMaxInput.toNat) :
    InvAt P s.withTables :=
  have T := (buildTree_spec (count s.inputBytes)).1
  ((h.withFreq (h.total_count_le hP hin)).withTree T).withCode T.walkTable_wf

theorem encodeBody_keeps (hP : P.Legal) (h : InvAt P s) (hs : s.status = 0#8) (ht : encodeBody P s = .next t) :
    InvAt P t := by
  rcases encodeBody_outcome P hs with ⟨-, e⟩ | ⟨-, -, e⟩ | ⟨hin, hfit, e⟩ <;> cases e.symm.trans ht
  · exact h.flag_capacity hs
  · have htables := h.withTables hP hin
    exact (htables.withPayload hP (length_inputBytes s) (h.inLen_le hP hin) hfit).flagIf_of_clear
      (by simpa using hs) _ (by decide)

theorem unpackBody_keeps (hP : P.Legal) (h : InvAt P s) (hs : s.status = 0#8) (ht : unpackBody P s = .next t) :
    InvAt P t := by
  rcases unpackBody_outcome hP.bitsCapHigh hs with ⟨-, e⟩ | ⟨-, -, e⟩ | ⟨-, hfit, e⟩
  · cases e.symm.trans ht
    exact h.flag_capacity hs
  · cases e.symm.trans ht
  · exact emitDecoded_keeps (h.withImported hP hs hfit) (withImported_status hs).2 (e.symm.trans ht)

theorem execAt_keeps (hP : P.Legal) (h : InvAt P s) {i : Instr} (ht : execAt P i s = .next t) : InvAt P t := by
  have h0 := h.clearStatus
  cases i with
  | sreset => exact sresetBody_keeps h0 ht
  | count => exact countBody_keeps hP h0 rfl ht
  | build => exact buildBody_keeps h0 rfl ht
  | walk => exact walkBody_keeps h0 rfl ht
  | emit => exact emitBody_keeps hP h0 rfl ht
  | dect => exact decode_keeps (l := dect s.code s.payload) h0 rfl ht
  | decr => exact decode_keeps (l := decr s.node s.root s.payload) h0 rfl ht
  | exportContainer => exact exportBody_keeps h0 rfl ht
  | importContainer => exact importBody_keeps hP h0 rfl ht
  | encode => exact encodeBody_keeps hP h0 rfl ht
  | unpack => exact unpackBody_keeps hP h0 rfl ht

/-! ### The host operations and reset -/

theorem clampCfg_le (P : Params) (v : Word) : (clampCfg P v).toNat ≤ P.maxInputLimit.toNat := by
  unfold clampCfg
  split
  · assumption
  · exact Nat.le_refl _

theorem regWrite_keeps (h : InvAt P s) (n : Nat) (v : Word) : InvAt P (regWrite P n v s) := by
  unfold regWrite
  split
  case h_1 => exact { h with cfg := clampCfg_le P v }
  all_goals exact { h with }

theorem writeElem_keeps (h : InvAt P s) {k : Space} {i : Nat} {e : Elem} (hi : i < k.size P) (he : e.fits k = true) :
    InvAt P (writeElem P k i e s) := by
  unfold writeElem
  split
  case h_1 => exact { h with input := Mem.write_wf i _ hi h.input }
  case h_2 => exact { h with blob := Mem.write_wf i _ hi h.blob }
  case h_3 => exact { h with bits := writeBits_wf i _ h.bits }
  case h_4 => exact h.withCode (wf_put_entry _ h.code (ofRecord_wf (by simpa [Elem.fits] using he)))
  case h_5 => exact h

theorem bufWrite_keeps (h : InvAt P s) {sp i : Nat} {e : Elem} (he : (HostOp.bufWrite sp i e).wf = true) :
    InvAt P (bufWrite P sp i e s) := by
  unfold bufWrite
  cases hk : Space.ofId sp with
  | none => exact h
  | some k =>
    simp only [HostOp.wf, hk] at he
    dsimp only
    split
    · exact writeElem_keeps h ‹_› he
    · exact h

theorem powerOn_inv {v : Word} (hv : v.toNat ≤ P.maxInputLimit.toNat) : InvAt P (State.powerOn v) where
  input := rfl
  bits := rfl
  out := rfl
  blob := rfl
  cfg := hv
  unique := present_zero.symm
  counted := total_zero.le.trans (Nat.zero_le _)
  tree := reset_treeWf
  code := emptyTable_wf
  status := List.mem_cons_self
  stats := stats_zero
  decoded i hi := absurd hi (Nat.not_lt_zero i)

theorem access_keeps (hP : P.Legal) (h : InvAt P s) {op : HostOp} (ht : access P op s = .next t) : InvAt P t := by
  cases op with
  | regRead n => cases ht; exact h.respond _
  | regWrite n v => cases ht; exact regWrite_keeps h n v
  | bufRead sp i => cases ht; exact h.respond _
  | bufWrite sp i e =>
    rw [access] at ht
    split at ht <;> cases ht
    exact bufWrite_keeps h ‹_›
  | issue c => cases ht; exact h
  | hwReset => cases ht; exact { powerOn_inv hP.resetLeLimit with }

theorem stepAt_keeps (hP : P.Legal) (h : InvAt P s) (ht : stepAt P s = .next t) : InvAt P t := by
  rcases stepAt_cases P s with ⟨-, e⟩ | ⟨op, rest, -, ⟨c, i, -, -, e⟩ | ⟨c, r, -, -, e⟩ | ⟨-, e⟩⟩
  · cases e.symm.trans ht
    exact h
  · exact execAt_keeps hP (h.accept rest) (e.symm.trans ht)
  · cases e.symm.trans ht
    exact (h.accept rest).clearStatus.flagIf_of_clear rfl true (by decide)
  · exact access_keeps hP (h.accept rest) (e.symm.trans ht)

end

/-- Settles O58: the reset state holds no symbol, no tree, no code and no output. -/
theorem resetMeetsTheInvariant : Obligations.ResetMeetsTheInvariant :=
  ⟨fun _ hP => powerOn_inv hP.resetLeLimit, powerOn_inv params_legal.resetLeLimit⟩

/-- Settles O59: each command and each host operation is a chain of updates that keep the invariant. -/
theorem everyStepKeepsTheInvariant : Obligations.EveryStepKeepsTheInvariant :=
  ⟨fun _ _ _ hP h ht => stepAt_keeps hP h ht, fun s _ h ht => stepAt_keeps params_legal h (step_eq_stepAt s ▸ ht)⟩

end Sys2Proof.Machine
end

section
/-! SUPPORT. The write set of every command (10_state.md R53, 70_reset_and_hazards.md R320). -/

namespace Sys2Proof.Machine

/-- A write that did not shrink the length leaves the elements at and above the new length as they were (log 9). -/
theorem Mem.lookup_replace_above {α : Type} {l : List α} {old i : Nat} {m : List (Nat × α)} (hl : l.length < 2 ^ 32)
    (hi : (BitVec.ofNat 32 l.length).toNat ≤ i) (hold : old ≤ (BitVec.ofNat 32 l.length).toNat) :
    Mem.lookup i (Mem.replace l old m) = Mem.lookup i m := by
  rw [BitVec.toNat_ofNat, Nat.mod_eq_of_lt hl] at hi hold
  rw [Mem.lookup_replace, if_neg (not_lt.mpr hi), if_neg (not_lt.mpr hold)]

section
variable {P : Params} {s t : State}

theorem countBody_frame (h : countBody s = .next t) :
    t = { s with status := t.status, freq := t.freq, unique := t.unique } := by
  rcases countBody_cases s with ⟨-, e⟩ | ⟨-, e⟩ <;> cases e.symm.trans h
  · rfl
  · rcases State.flagIf_cases (s.withFreq _ _) (s.inLen == 0#32) EMPTY with e | e <;> rw [e] <;> rfl

theorem walkBody_frame (h : walkBody s = .next t) : t = { s with status := t.status, code := t.code } := by
  cases (walkBody_eq s).symm.trans h
  rcases State.flagIf_cases (s.withCode _) (s.root == NIL) EMPTY with e | e <;> rw [e] <;> rfl

theorem emitBody_frame (hP : P.bitsCap < 2 ^ 32) (h : emitBody P s = .next t) :
    t = { s with
      status := t.status, bits := t.bits, bitsLen := t.bitsLen, origBits := t.origBits, encBits := t.encBits,
      ratioX100 := t.ratioX100, errSym := t.errSym, errPos := t.errPos } ∧
    (t.status.getLsbD 2 = false → t.errSym = s.errSym ∧ t.errPos = s.errPos ∧
      ∀ i, t.bitsLen.toNat ≤ i → s.bitsLen.toNat ≤ t.bitsLen.toNat → Mem.lookup i t.bits = Mem.lookup i s.bits) := by
  rcases emitBody_cases P s with ⟨-, e⟩ | ⟨-, -, e⟩ | ⟨-, -, sym, pos, -, e⟩ | ⟨-, hfit, -, e⟩ <;> cases e.symm.trans h
  · exact ⟨rfl, fun _ => ⟨rfl, rfl, fun _ _ _ => rfl⟩⟩
  · refine ⟨rfl, fun hstatus => ?_⟩
    rw [State.flag_getLsbD rfl] at hstatus
    cases hstatus
  · rcases State.flagIf_cases ((s.withBits _).withStats _ _ _) (s.inLen == 0#32) EMPTY with e | e <;> rw [e] <;>
      exact ⟨rfl, fun _ => ⟨rfl, rfl, fun _ => Mem.lookup_replace_above (hfit.trans_lt hP)⟩⟩

theorem emitDecoded_frame {l : List Byte} (hP : P.outCap < 2 ^ 32) (h : emitDecoded P l s = .next t) :
    t = { s with status := t.status, out := t.out, outLen := t.outLen } ∧
    ∀ i, t.outLen.toNat ≤ i → s.outLen.toNat ≤ t.outLen.toNat → Mem.lookup i t.out = Mem.lookup i s.out := by
  rcases emitDecoded_cases P l s with ⟨-, e⟩ | ⟨hfit, e⟩ <;> cases e.symm.trans h
  rcases State.flagIf_cases (s.withOut l) (s.bitsLen == 0#32) EMPTY with e | e <;> rw [e] <;>
    exact ⟨rfl, fun _ => Mem.lookup_replace_above (hfit.trans_lt hP)⟩

/-- The write set of DECT and of DECR, whatever bytes `l` they decode. -/
theorem decode_frame {l : List Byte} (hP : P.outCap < 2 ^ 32) (h : bounded s.bitsSize (emitDecoded P l) s = .next t) :
    t = { s with status := t.status, out := t.out, outLen := t.outLen } ∧
    ∀ i, t.outLen.toNat ≤ i → s.outLen.toNat ≤ t.outLen.toNat → Mem.lookup i t.out = Mem.lookup i s.out := by
  rcases bounded_cases s.bitsSize (emitDecoded P l) s with ⟨-, e⟩ | ⟨-, e⟩
  · cases e.symm.trans h
    exact ⟨rfl, fun _ _ _ => rfl⟩
  · exact emitDecoded_frame hP (e.symm.trans h)

theorem exportBody_frame (hP : P.blobCap < 2 ^ 32) (h : exportBody P s = .next t) :
    t = { s with status := t.status, blob := t.blob, blobLen := t.blobLen } ∧
    ∀ i, t.blobLen.toNat ≤ i → s.blobLen.toNat ≤ t.blobLen.toNat → Mem.lookup i t.blob = Mem.lookup i s.blob := by
  rcases exportBody_cases P s with ⟨-, e⟩ | ⟨-, -, e⟩ | ⟨-, hfit, e⟩ <;> cases e.symm.trans h
  · exact ⟨rfl, fun _ _ _ => rfl⟩
  · rcases State.flagIf_cases (s.withBlob _) (s.bitsLen == 0#32) EMPTY with e | e <;> rw [e] <;>
      exact ⟨rfl, fun _ => Mem.lookup_replace_above (hfit.trans_lt hP)⟩

theorem withImported_frame (hfit : (imported P s).2.1.length < 2 ^ 32) :
    s.withImported P = { s with
      status := (s.withImported P).status, code := (s.withImported P).code, bits := (s.withImported P).bits,
      bitsLen := (s.withImported P).bitsLen } ∧
    ∀ i, (s.withImported P).bitsLen.toNat ≤ i → s.bitsLen.toNat ≤ (s.withImported P).bitsLen.toNat →
      Mem.lookup i (s.withImported P).bits = Mem.lookup i s.bits := by
  rw [State.withImported]
  rcases State.flagIf_cases (State.flagIf _ DEGRADED _) (s.blobLen == 0#32) EMPTY with e | e <;> rw [e] <;>
    rcases State.flagIf_cases ((s.withCode _).withBits _) (imported P s).2.2 DEGRADED with e | e <;> rw [e] <;>
    exact ⟨rfl, fun _ => Mem.lookup_replace_above hfit⟩

theorem importBody_frame (hP : P.bitsCap < 2 ^ 32) (h : importBody P s = .next t) :
    t = { s with status := t.status, code := t.code, bits := t.bits, bitsLen := t.bitsLen } ∧
    ∀ i, t.bitsLen.toNat ≤ i → s.bitsLen.toNat ≤ t.bitsLen.toNat → Mem.lookup i t.bits = Mem.lookup i s.bits := by
  rcases importBody_cases P s with ⟨-, e⟩ | ⟨-, -, e⟩ | ⟨-, hfit, e⟩ <;> cases e.symm.trans h
  · exact ⟨rfl, fun _ _ _ => rfl⟩
  · exact withImported_frame (hfit.trans_lt hP)

theorem encodeBody_frame (hP : P.bitsCap < 2 ^ 32) (hs : s.status = 0#8) (h : encodeBody P s = .next t) :
    t = { s with
      status := t.status, freq := t.freq, unique := t.unique, node := t.node, root := t.root, code := t.code,
      bits := t.bits, bitsLen := t.bitsLen, origBits := t.origBits, encBits := t.encBits, ratioX100 := t.ratioX100 } ∧
    ∀ i, t.bitsLen.toNat ≤ i → s.bitsLen.toNat ≤ t.bitsLen.toNat → Mem.lookup i t.bits = Mem.lookup i s.bits := by
  rcases encodeBody_outcome P hs with ⟨-, e⟩ | ⟨-, -, e⟩ | ⟨-, hfit, e⟩ <;> cases e.symm.trans h
  · exact ⟨rfl, fun _ _ _ => rfl⟩
  · have hu : s.withTables = { s with
        freq := s.withTables.freq, unique := s.withTables.unique, node := s.withTables.node, root := s.withTables.root,
        code := s.withTables.code } := rfl
    rw [State.encoded]
    generalize s.withTables = u at hu hfit
    rcases State.flagIf_cases ((u.withBits _).withStats _ _ _) (s.inLen == 0#32) EMPTY with e | e <;> rw [e, hu] <;>
      exact ⟨rfl, fun _ => Mem.lookup_replace_above (hfit.trans_lt hP)⟩

theorem unpackBody_frame (hP : P.bitsCap < 2 ^ 32) (hO : P.outCap < 2 ^ 32) (hs : s.status = 0#8)
    (h : unpackBody P s = .next t) :
    t = { s with status := t.status, code := t.code, bits := t.bits, bitsLen := t.bitsLen, out := t.out, outLen := t.outLen } ∧
    (∀ i, t.bitsLen.toNat ≤ i → s.bitsLen.toNat ≤ t.bitsLen.toNat → Mem.lookup i t.bits = Mem.lookup i s.bits) ∧
    ∀ i, t.outLen.toNat ≤ i → s.outLen.toNat ≤ t.outLen.toNat → Mem.lookup i t.out = Mem.lookup i s.out := by
  rcases unpackBody_outcome hP hs with ⟨-, e⟩ | ⟨-, -, e⟩ | ⟨-, hfit, e⟩
  · cases e.symm.trans h
    exact ⟨rfl, fun _ _ _ => rfl, fun _ _ _ => rfl⟩
  · cases e.symm.trans h
  · obtain ⟨ht, hout⟩ := emitDecoded_frame hO (e.symm.trans h)
    obtain ⟨hu, hbits⟩ := withImported_frame (hfit.trans_lt hP)
    generalize s.withImported P = u at ht hout hu hbits
    have ht' := ht
    rw [hu] at ht' hout
    rw [ht']
    exact ⟨rfl, hbits, hout⟩

end

/-- Settles O56: each command's outcomes are updates of the elements of its row. -/
theorem commandsWriteOnlyTheirOutputs : Obligations.CommandsWriteOnlyTheirOutputs := by
  have hbits : params.bitsCap < 2 ^ 32 := params_legal.bitsCapHigh
  have hout : params.outCap < 2 ^ 32 := by decide
  have hblob : params.blobCap < 2 ^ 32 := by decide
  intro s t
  exact ⟨countBody_frame (s := s.clearStatus), buildBody_frame (s := s.clearStatus), walkBody_frame (s := s.clearStatus),
    emitBody_frame (s := s.clearStatus) hbits,
    fun h => h.elim (decode_frame (s := s.clearStatus) (l := dect s.code s.payload) hout)
      (decode_frame (s := s.clearStatus) (l := decr s.node s.root s.payload) hout),
    exportBody_frame (s := s.clearStatus) hblob, importBody_frame (s := s.clearStatus) hbits,
    encodeBody_frame (s := s.clearStatus) hbits rfl, unpackBody_frame (s := s.clearStatus) hbits hout rfl⟩

end Sys2Proof.Machine
end

section
/-! SUPPORT. The read set of every command (10_state.md R53, 47_session_commands.md R263, R272). -/

namespace Sys2Proof.Machine

/-! ### Runs of two states side by side -/

section
variable {rel : State → State → Prop} {s s' : State}

theorem SameRun.next {t u : State} (h : rel t u) : SameRun rel (.next t) (.next u) := .inl ⟨t, u, rfl, rfl, h⟩

/-- A finer relation may use what each run's outcome is. -/
theorem SameRun.mono {rel' : State → State → Prop} {a b : Result} (h : SameRun rel a b)
    (hrel : ∀ t u, a = .next t → b = .next u → rel t u → rel' t u) : SameRun rel' a b := by
  rcases h with ⟨t, u, ha, hb, h⟩ | h
  · exact .inl ⟨t, u, ha, hb, hrel t u ha hb h⟩
  · exact .inr h

/-- Two runs under the same capacity check agree when they agree on passing it. -/
theorem SameRun.bounded_of_le {len len' : Nat} {body body' : State → Result} (hcfg : s.cfgMaxInput = s'.cfgMaxInput)
    (hlen : len = len') (hcap : rel (s.flag CAPACITY) (s'.flag CAPACITY))
    (h : len ≤ s.cfgMaxInput.toNat → SameRun rel (bounded len body s) (bounded len' body' s')) :
    SameRun rel (bounded len body s) (bounded len' body' s') := by
  by_cases hle : len ≤ s.cfgMaxInput.toNat
  · exact h hle
  · rw [bounded_of_lt _ (not_le.mp hle), bounded_of_lt _ (by rw [← hcfg, ← hlen]; exact not_le.mp hle)]
    exact .next hcap

/-- Two runs under the same capacity check agree when what they run behind it does. -/
theorem SameRun.bounded {len len' : Nat} {body body' : State → Result} (hcfg : s.cfgMaxInput = s'.cfgMaxInput)
    (hlen : len = len') (hcap : rel (s.flag CAPACITY) (s'.flag CAPACITY)) (hbody : SameRun rel (body s) (body' s')) :
    SameRun rel (bounded len body s) (bounded len' body' s') :=
  .bounded_of_le hcfg hlen hcap fun h => by
    rwa [Machine.bounded_of_le _ h, Machine.bounded_of_le _ (by rwa [← hcfg, ← hlen])]

/-- Two runs under the same room check. -/
theorem SameRun.fitting {sp : Space} {cap len len' : Nat} {a b : Result} (hlen : len = len')
    (h : len ≤ cap → SameRun rel a b) : SameRun rel (fitting sp cap len a) (fitting sp cap len' b) := by
  subst hlen
  unfold Machine.fitting
  split
  · exact .inr ⟨_, rfl, rfl⟩
  · exact h (by omega)

end

/-- CAPACITY is set, so a claim about a run without it holds. -/
theorem capacity_absurd {s : State} {p : Prop} (h : (s.flag CAPACITY).status.getLsbD 3 = false) : p := by
  rw [State.flag_getLsbD rfl] at h
  cases h

/-! ### The commands -/

section
variable {P : Params} {s s' : State} (hcfg : s.cfgMaxInput = s'.cfgMaxInput) (hstatus : s.status = s'.status)
include hcfg hstatus

theorem countBody_sameRun (hlen : s.inLen = s'.inLen) (hin : s.inputBytes = s'.inputBytes) :
    SameRun (fun t t' => t.status = t'.status ∧ (t.status.getLsbD 3 = false → t.freq = t'.freq ∧ t.unique = t'.unique))
      (countBody s) (countBody s') := by
  refine .bounded hcfg (congrArg BitVec.toNat hlen) ⟨by simp [hstatus], fun h => capacity_absurd h⟩ (.next ?_)
  simp [hin, hlen, hstatus]

omit hcfg in
theorem buildBody_sameRun (hfreq : s.freq = s'.freq) :
    SameRun (fun t t' => t.status = t'.status ∧ t.node = t'.node ∧ t.root = t'.root) (buildBody s) (buildBody s') :=
  .next (by simp [hfreq, hstatus])

omit hcfg in
theorem walkBody_sameRun (hnode : s.node = s'.node) (hroot : s.root = s'.root) :
    SameRun (fun t t' => t.status = t'.status ∧ t.code = t'.code) (walkBody s) (walkBody s') :=
  .next (by simp [hnode, hroot, hstatus])

theorem emitBody_sameRun (hP : P.bitsCap < 2 ^ 32) (hclear : s.status.getLsbD 2 = false) (hlen : s.inLen = s'.inLen)
    (hin : s.inputBytes = s'.inputBytes) (hcode : s.code = s'.code) :
    SameRun (fun t t' => t.status = t'.status ∧
      (t.status.getLsbD 3 = false → t.bitsLen = t'.bitsLen ∧ t.payload = t'.payload) ∧
      (t.status.getLsbD 3 = false → t.status.getLsbD 2 = false →
        t.origBits = t'.origBits ∧ t.encBits = t'.encBits ∧ t.ratioX100 = t'.ratioX100) ∧
      (t.status.getLsbD 2 = true → t.errSym = t'.errSym ∧ t.errPos = t'.errPos)) (emitBody P s) (emitBody P s') := by
  refine .bounded hcfg (congrArg BitVec.toNat hlen) ⟨by simp [hstatus], fun h => capacity_absurd h,
    fun h => capacity_absurd h, fun h => ?_⟩ ?_
  · rw [← State.flagIf_true, State.flagIf_getLsbD _ rfl, hclear] at h
    cases h
  · dsimp only
    rw [← hcode, ← hin]
    refine .fitting rfl fun hfit => ?_
    have hfit' := hfit.trans_lt hP
    cases (emit s.code s.inputBytes).unknown with
    | some q =>
      refine .next ⟨by simp [hstatus], fun _ => ⟨rfl, rfl⟩, fun _ h => ?_, fun _ => ⟨rfl, rfl⟩⟩
      rw [State.flag_getLsbD rfl] at h
      cases h
    | none =>
      refine .next ⟨by simp [hstatus, hlen], fun _ => ⟨by simp, ?_⟩, fun _ _ => by simp [hlen], fun h => ?_⟩
      · simp only [State.payload_flagIf, State.payload_withStats, withBits_payload _ _ hfit']
      · rw [State.flagIf_getLsbD _ rfl, State.withStats_status, State.withBits_status, hclear] at h
        cases h

omit hcfg in
theorem emitDecoded_sameRun (hP : P.outCap < 2 ^ 32) (l : List Byte) (hlen : s.bitsLen = s'.bitsLen) :
    SameRun (fun t t' => t.status = t'.status ∧ t.outLen = t'.outLen ∧ t.outBytes = t'.outBytes)
      (emitDecoded P l s) (emitDecoded P l s') := by
  refine .fitting rfl fun hfit => .next ⟨by simp [hstatus, hlen], by simp, ?_⟩
  simp only [State.outBytes_flagIf, withOut_outBytes _ _ (hfit.trans_lt hP)]

/-- The clause of DECT and DECR: what is emitted is the same sequence. -/
theorem decode_sameRun (hP : P.outCap < 2 ^ 32) (hlen : s.bitsLen = s'.bitsLen) {l l' : List Byte} (hl : l = l') :
    SameRun (fun t t' => t.status = t'.status ∧
      (t.status.getLsbD 3 = false → t.outLen = t'.outLen ∧ t.outBytes = t'.outBytes))
      (bounded s.bitsSize (emitDecoded P l) s) (bounded s'.bitsSize (emitDecoded P l') s') := by
  subst hl
  refine .bounded hcfg (by simp [State.bitsSize, hlen]) ⟨by simp [hstatus], fun h => capacity_absurd h⟩ ?_
  exact (emitDecoded_sameRun hstatus hP l hlen).mono fun _ _ _ _ h => ⟨h.1, fun _ => h.2⟩

theorem exportBody_sameRun (hP : P.blobCap < 2 ^ 32) (hlen : s.bitsLen = s'.bitsLen) (hbits : s.payload = s'.payload)
    (hcode : s.code = s'.code) : SameRun (fun t t' => t.status = t'.status ∧
      (t.status.getLsbD 3 = false → t.blobLen = t'.blobLen ∧ t.blobBytes = t'.blobBytes))
      (exportBody P s) (exportBody P s') := by
  refine .bounded hcfg (by simp [State.bitsSize, hlen]) ⟨by simp [hstatus], fun h => capacity_absurd h⟩ ?_
  dsimp only
  rw [← hcode, ← hbits]
  refine .fitting rfl fun hfit => .next ⟨by simp [hstatus, hlen], fun _ => ⟨by simp, ?_⟩⟩
  simp only [State.blobBytes_flagIf, withBlob_blobBytes _ _ (hfit.trans_lt hP)]

omit hcfg hstatus in
theorem imported_congr (hblob : s.blobBytes = s'.blobBytes) : imported P s = imported P s' := by
  rw [imported, imported, hblob]

omit hcfg in
theorem withImported_congr (hlen : s.blobLen = s'.blobLen) (hblob : s.blobBytes = s'.blobBytes)
    (hfit : (imported P s).2.1.length < 2 ^ 32) :
    (s.withImported P).status = (s'.withImported P).status ∧ (s.withImported P).code = (s'.withImported P).code ∧
      (s.withImported P).bitsLen = (s'.withImported P).bitsLen ∧
      (s.withImported P).payload = (s'.withImported P).payload := by
  have h := imported_congr (P := P) hblob
  simp only [State.withImported, ← h, ← hlen, State.payload_flagIf, withBits_payload _ _ hfit]
  simp [hstatus]

theorem importBody_sameRun (hP : P.bitsCap < 2 ^ 32) (hlen : s.blobLen = s'.blobLen)
    (hblob : s.blobBytes = s'.blobBytes) : SameRun (fun t t' => t.status = t'.status ∧
      (t.status.getLsbD 3 = false → t.code = t'.code ∧ t.bitsLen = t'.bitsLen ∧ t.payload = t'.payload))
      (importBody P s) (importBody P s') := by
  rw [importBody_eq, importBody_eq]
  refine .bounded hcfg (congrArg BitVec.toNat hlen) ⟨by simp [hstatus], fun h => capacity_absurd h⟩ ?_
  refine .fitting (by rw [imported_congr hblob]) fun hfit => ?_
  obtain ⟨h1, h2⟩ := withImported_congr hstatus hlen hblob (hfit.trans_lt hP)
  exact .next ⟨h1, fun _ => h2⟩

end

section
variable {P : Params} {s s' : State} (hcfg : s.cfgMaxInput = s'.cfgMaxInput) (hs : s.status = 0#8) (hs' : s'.status = 0#8)
include hcfg hs hs'

theorem encodeBody_sameRun (hP : P.bitsCap < 2 ^ 32) (hlen : s.inLen = s'.inLen) (hin : s.inputBytes = s'.inputBytes) :
    SameRun (fun t t' => t.status = t'.status ∧
      (t.status.getLsbD 3 = false → t.freq = t'.freq ∧ t.unique = t'.unique ∧ t.node = t'.node ∧ t.root = t'.root ∧
        t.code = t'.code ∧ t.bitsLen = t'.bitsLen ∧ t.payload = t'.payload ∧ t.origBits = t'.origBits ∧
        t.encBits = t'.encBits ∧ t.ratioX100 = t'.ratioX100)) (encodeBody P s) (encodeBody P s') := by
  refine .bounded_of_le hcfg (congrArg BitVec.toNat hlen) ⟨by simp [hs, hs'], fun h => capacity_absurd h⟩ fun h => ?_
  change SameRun _ (encodeBody P s) (encodeBody P s')
  have h' : s'.inSize ≤ s'.cfgMaxInput.toNat := by rwa [State.inSize, ← hlen, ← hcfg]
  have hcode : s.withTables.code = s'.withTables.code := by simp [State.withTables, hin]
  rw [encodeBody_eq_fitting P hs h, encodeBody_eq_fitting P hs' h', ← hcode, ← hin]
  refine .fitting rfl fun hfit => .next ?_
  simp only [State.encoded, ← hcode, ← hin, ← hlen, State.payload_flagIf, State.payload_withStats,
    withBits_payload _ _ (hfit.trans_lt hP)]
  simp [State.withTables, hin, hs, hs']

theorem unpackBody_sameRun (hP : P.bitsCap < 2 ^ 32) (hO : P.outCap < 2 ^ 32) (hlen : s.blobLen = s'.blobLen)
    (hblob : s.blobBytes = s'.blobBytes) : SameRun (fun t t' => t.status = t'.status ∧
      (t.status.getLsbD 3 = false → t.code = t'.code ∧ t.bitsLen = t'.bitsLen ∧ t.payload = t'.payload ∧
        t.outLen = t'.outLen ∧ t.outBytes = t'.outBytes)) (unpackBody P s) (unpackBody P s') := by
  refine .bounded_of_le hcfg (congrArg BitVec.toNat hlen) ⟨by simp [hs, hs'], fun h => capacity_absurd h⟩ fun h => ?_
  change SameRun _ (unpackBody P s) (unpackBody P s')
  have h' : s'.blobSize ≤ s'.cfgMaxInput.toNat := by rwa [State.blobSize, ← hlen, ← hcfg]
  rw [unpackBody_eq_emitDecoded hP hs h, unpackBody_eq_emitDecoded hP hs' h', ← imported_congr hblob]
  refine .fitting rfl fun hfit => .fitting rfl fun hfit' => .next ?_
  obtain ⟨hstatus, hcode, hbitsLen, hpayload⟩ := withImported_congr (hs.trans hs'.symm) hlen hblob (hfit.trans_lt hP)
  simp only [State.outBytes_flagIf, withOut_outBytes _ _ (hfit'.trans_lt hO)]
  simp [hstatus, hcode, hbitsLen, hpayload]

end

/-- Settles O57: from STATUS 0 each command's outcome is a function of its operands. -/
theorem outputsDependOnTheOperandsOnly : Obligations.OutputsDependOnTheOperandsOnly := by
  have hbits : params.bitsCap < 2 ^ 32 := params_legal.bitsCapHigh
  have hout : params.outCap < 2 ^ 32 := by decide
  have hblob : params.blobCap < 2 ^ 32 := by decide
  intro s s' hcfg
  have hc : s.clearStatus.cfgMaxInput = s'.clearStatus.cfgMaxInput := hcfg
  have h0 : s.clearStatus.status = s'.clearStatus.status := rfl
  have hclear : s.clearStatus.status.getLsbD 2 = false := BitVec.getLsbD_zero
  exact ⟨countBody_sameRun hc h0, buildBody_sameRun h0, walkBody_sameRun h0, emitBody_sameRun hc h0 hbits hclear,
    fun hl hp hcode => decode_sameRun hc h0 hout hl (congrArg₂ dect hcode hp),
    fun hl hp hn hr => decode_sameRun hc h0 hout hl (by simp [hn, hr, hp]),
    exportBody_sameRun hc h0 hblob, importBody_sameRun hc h0 hbits, encodeBody_sameRun hc rfl rfl hbits,
    unpackBody_sameRun hc rfl rfl hbits hout⟩

end Sys2Proof.Machine
end

section
/-! SUPPORT. The host's views of a code entry and of a node, and the reset input (10_state.md R32, R36, R51). -/

namespace Sys2Proof.Machine

/-! ### The code record (R36) -/

theorem length_codeRecord {e : Option Code} (he : Code.entryWf e = true) : (codeRecord e).length = 33 := by
  cases e with
  | none => rfl
  | some c =>
    have hc := (Code.wf_iff.mp he).2
    simp only [codeRecord, List.length_cons, List.length_append, List.length_replicate, length_pack, ceil8]
    omega

/-- A record begins with the length of its code. -/
theorem codeRecord_getElem?_zero {c : Code} : (codeRecord (some c))[0]? = some (BitVec.ofNat 8 c.length) := rfl

theorem codeRecord_drop_one (c : Code) :
    (codeRecord (some c)).drop 1 = pack c ++ List.replicate (32 - ceil8 c.length) 0#8 := by
  simp [codeRecord]

theorem unpack_replicate_zero (n : Nat) : unpack (List.replicate n 0#8) = List.replicate (8 * n) false := by
  induction n with
  | zero => rfl
  | succ n ih =>
    rw [List.replicate_succ, unpack_cons, ih, Nat.mul_succ, Nat.add_comm, List.replicate_add]
    rfl

/-- The 256 bits of a record are the code and zeros. -/
theorem unpack_codeRecord_drop_one {c : Code} (hc : c.length ≤ 255) :
    unpack ((codeRecord (some c)).drop 1) = c ++ List.replicate (256 - c.length) false := by
  rw [codeRecord_drop_one, unpack_append, unpack_pack, unpack_replicate_zero, List.append_assoc,
    List.replicate_append_replicate]
  congr 2
  simp only [ceil8]
  omega

theorem ofRecord_codeRecord {e : Option Code} (he : Code.entryWf e = true) : ofRecord (codeRecord e) = e := by
  cases e with
  | none => rfl
  | some c =>
    obtain ⟨h1, h2⟩ := Code.wf_iff.mp he
    have hlen : (BitVec.ofNat 8 c.length).toNat = c.length := by
      rw [BitVec.toNat_ofNat]
      omega
    have hne : BitVec.ofNat 8 c.length ≠ 0#8 := fun h => by
      rw [h] at hlen
      simp at hlen
      omega
    have hbits := unpack_codeRecord_drop_one h2
    rw [codeRecord, List.drop_one, List.tail_cons] at hbits
    rw [codeRecord, ofRecord, if_neg hne, hbits, hlen, List.take_left' rfl]

/-- What a written record reads back as: the first byte kept, and of the bits those below the length, the others 0. -/
theorem codeRecord_ofRecord {l : Byte} {bs : List Byte} (h : bs.length = 32) :
    (codeRecord (ofRecord (l :: bs)))[0]? = some l ∧ ∀ j, j < 256 →
      (unpack ((codeRecord (ofRecord (l :: bs))).drop 1))[j]? =
        some (decide (j < l.toNat) && (unpack bs).getD j false) := by
  by_cases hl : l = 0#8
  · subst hl
    refine ⟨rfl, fun j hj => ?_⟩
    rw [ofRecord, if_pos rfl, codeRecord, List.drop_replicate, unpack_replicate_zero, List.getElem?_replicate,
      if_pos (by omega)]
    simp
  · have hlen := unpack_take_length h l
    have hlt := l.toNat_lt
    rw [ofRecord, if_neg hl]
    refine ⟨by rw [codeRecord_getElem?_zero, hlen, BitVec.ofNat_toNat, BitVec.setWidth_eq], fun j hj => ?_⟩
    rw [unpack_codeRecord_drop_one (by omega), List.getElem?_append, hlen]
    split
    · rename_i hj'
      have hj'' : j < (unpack bs).length := by
        rw [length_unpack]
        omega
      rw [List.getElem?_take, if_pos hj', List.getD_eq_getElem _ _ hj'', List.getElem?_eq_getElem hj'']
      simp [hj']
    · rename_i hj'
      rw [List.getElem?_replicate, if_pos (by omega)]
      simp [hj']

theorem bufRead_code (P : Params) (s : State) (b : Byte) :
    bufRead P 4 b.toNat s = .record (codeRecord (s.code.at b)) := by
  have hb : b.toNat < Space.code.size P := b.toNat_lt
  simp only [bufRead, Space.ofId, if_pos hb, readElem, BitVec.ofNat_toNat, BitVec.setWidth_eq]

theorem bufWrite_code (P : Params) (s : State) (b : Byte) (r : List Byte) :
    bufWrite P 4 b.toNat (.record r) s = s.withCode (s.code.put b (ofRecord r)) := by
  have hb : b.toNat < Space.code.size P := b.toNat_lt
  simp only [bufWrite, Space.ofId, if_pos hb, writeElem, BitVec.ofNat_toNat, BitVec.setWidth_eq]

/-- Settles O8: a written record sets the entry it parses to, and the record of a code parses to that code. -/
theorem codeRecordReadsBackNormalised : Obligations.CodeRecordReadsBackNormalised := by
  refine ⟨fun s b r hr => ?_, bufRead_code params, fun e he => ⟨length_codeRecord he, ofRecord_codeRecord he, ?_, ?_⟩⟩
  · match r with
    | l :: bs =>
      have hbs : bs.length = 32 := by simpa using hr
      obtain ⟨h0, hbits⟩ := codeRecord_ofRecord (l := l) hbs
      refine ⟨_, _, bufWrite_code params s b _, bufRead_code params _ b, rfl, fun c hc => ?_, fun h => ?_,
        fun l' h hl => ?_, ?_⟩
      · exact Table.at_put_ne _ _ hc.symm
      · obtain rfl : l = 0#8 := by simpa using h
        simp [ofRecord]
      · obtain rfl : l = l' := by simpa using h
        simp [ofRecord, hl]
      · rw [State.withCode_code, Table.at_put_self]
        exact ⟨length_codeRecord (ofRecord_wf hr), by simpa using h0, by simpa using hbits⟩
  · rintro rfl
    rfl
  · rintro c rfl
    exact ⟨codeRecord_getElem?_zero, codeRecord_drop_one c⟩

/-! ### The node word (R32) -/

section
variable {v w start len : Nat} {hi : BitVec v} {lo : BitVec w}

/-- The field at the bottom of a packed word. -/
theorem extract_low : (hi ++ lo).extractLsb' 0 w = lo :=
  (BitVec.extractLsb'_append_eq_of_add_le (Nat.zero_add w).le).trans BitVec.extractLsb'_eq_self

/-- A field above the one at the bottom. -/
theorem extract_high {x : BitVec len} (h : hi.extractLsb' start len = x) : (hi ++ lo).extractLsb' (w + start) len = x := by
  rw [BitVec.extractLsb'_append_eq_of_le (Nat.le_add_right w start), Nat.add_sub_cancel_left, h]

end

/-- Each field of the node word is at its place. -/
theorem Node.pack_fields (n : Node) : n.pack.extractLsb' 0 32 = n.weight ∧ n.pack.extractLsb' 32 9 = n.left ∧
    n.pack.extractLsb' 41 9 = n.right ∧ n.pack.extractLsb' 50 8 = n.symbol ∧ n.pack.extractLsb' 60 4 = 0#4 ∧
    n.pack.extractLsb' 58 2 = n.kind :=
  ⟨extract_low, extract_high (start := 0) extract_low,
    extract_high (start := 9) (extract_high (start := 0) extract_low),
    extract_high (start := 18) (extract_high (start := 9) (extract_high (start := 0) extract_low)),
    extract_high (start := 28) (extract_high (start := 19) (extract_high (start := 10) (extract_high (start := 2)
      (extract_high (start := 0) BitVec.extractLsb'_eq_self)))),
    extract_high (start := 26) (extract_high (start := 17) (extract_high (start := 8) (extract_high (start := 0)
      extract_low)))⟩

theorem bufWrite_node (P : Params) (s : State) (i : Nat) (e : Elem) : bufWrite P 3 i e s = s := by
  rw [bufWrite, Space.ofId]
  dsimp only
  split
  · cases e <;> rfl
  · rfl

/-- Settles O9: the host reads the packed node, and no write reaches NODE. -/
theorem nodeWordFields : Obligations.NodeWordFields := by
  intro s i
  refine ⟨fun hi => ?_, fun hi => if_neg (not_lt.mpr hi), bufWrite_node params s i⟩
  obtain ⟨hweight, hleft, hright, hsymbol, hzero, hkind⟩ := Node.pack_fields (nodeAt s.node (BitVec.ofNat 9 i))
  refine ⟨_, if_pos hi, hweight, hleft, hright, hsymbol, hzero, hkind.trans ?_⟩
  cases nodeAt s.node (BitVec.ofNat 9 i) <;> rfl

/-! ### The reset input (R51) -/

/-- Settles O4: the reset input gives the reset state, but for the model's own `pending` and `draws`. -/
theorem hardwareResetValues : Obligations.HardwareResetValues := by
  have hstep : ∀ (P : Params) (s : State) (rest : List HostOp), s.pending = .hwReset :: rest →
      stepAt P s = .next { resetAt P with pending := rest, draws := s.draws + 1 } := by
    intro P s rest h
    rw [stepAt, stepWith, h]
    rfl
  refine ⟨fun P s rest h => ⟨_, hstep P s rest h, ?_⟩, fun s rest h => ?_, rfl⟩
  · exact ⟨rfl, rfl, rfl, rfl, rfl, rfl, rfl, rfl, rfl, rfl, rfl, rfl, rfl, Table.at_replicate _, nodeAt_free,
      Table.at_replicate _, fun _ => ⟨rfl, rfl, rfl, rfl⟩, rfl, rfl⟩
  · rw [step_eq_stepAt, hstep params s rest h]
    rfl

end Sys2Proof.Machine
end

section
/-! SUPPORT. Accesses outside a space or to a read-only space (20_memory.md R67, R70), the refusals for want of room (R69), and
what a step under legal parameters is refused for. -/

namespace Sys2Proof.Machine

/-! ### Accesses without effect (R67, R70) -/

section
variable {P : Params} {s : State} {sp i : Nat} {k : Space}

theorem Space.ofId_eq_none (h : sp = 0 ∨ 7 < sp) : Space.ofId sp = none := by
  unfold Space.ofId
  split
  case h_8 => rfl
  all_goals omega

theorem bufRead_of_ofId_none (h : Space.ofId sp = none) : bufRead P sp i s = .word32 0#32 := by rw [bufRead, h]

theorem bufRead_of_size_le (hk : Space.ofId sp = some k) (hi : k.size P ≤ i) : bufRead P sp i s = k.zero := by
  rw [bufRead, hk]
  exact if_neg (not_lt.mpr hi)

theorem bufWrite_of_ofId_none (h : Space.ofId sp = none) (e : Elem) : bufWrite P sp i e s = s := by rw [bufWrite, h]

theorem bufWrite_of_size_le (hk : Space.ofId sp = some k) (hi : k.size P ≤ i) (e : Elem) : bufWrite P sp i e s = s := by
  rw [bufWrite, hk]
  exact if_neg (not_lt.mpr hi)

theorem bufWrite_of_writeElem_eq (hk : Space.ofId sp = some k) {e : Elem} (h : writeElem P k i e s = s) :
    bufWrite P sp i e s = s := by
  rw [bufWrite, hk]
  exact (if_congr Iff.rfl h rfl).trans (ite_self s)

theorem step_of_bufRead {rest : List HostOp} (h : s.pending = .bufRead sp i :: rest) :
    step s = .next ((s.accept rest).respond (bufRead params sp i (s.accept rest))) := by
  rw [step, stepWith, h]
  rfl

theorem step_of_bufWrite {e : Elem} {rest : List HostOp} (h : s.pending = .bufWrite sp i e :: rest)
    (he : (HostOp.bufWrite sp i e).wf = true) : step s = .next (bufWrite params sp i e (s.accept rest)) := by
  rw [step, stepWith, h]
  exact if_pos he

end

/-- Settles O7: a write there leaves the state as it is, and a read there answers the space's zero. -/
theorem accessOutOfRangeOrReadOnlyHasNoEffect : Obligations.AccessOutOfRangeOrReadOnlyHasNoEffect := by
  refine fun s rest sp i => ⟨fun e hp he hsp => ?_, fun hp => ⟨_, step_of_bufRead hp, fun h => ?_, ?_, ?_, ?_, ?_⟩⟩
  · have hsame : bufWrite params sp i e (s.accept rest) = s.accept rest := by
      rcases hsp with rfl | h | rfl | rfl | rfl | ⟨rfl, hi⟩ | ⟨rfl, hi⟩ | ⟨rfl, hi⟩ | ⟨rfl, hi⟩
      · exact bufWrite_of_ofId_none rfl e
      · exact bufWrite_of_ofId_none (Space.ofId_eq_none (.inr h)) e
      · exact bufWrite_of_writeElem_eq (k := .freq) rfl (by cases e <;> rfl)
      · exact bufWrite_node params _ i e
      · exact bufWrite_of_writeElem_eq (k := .out) rfl (by cases e <;> rfl)
      all_goals exact bufWrite_of_size_le rfl hi e
    rw [step_of_bufWrite hp he, hsame]
    rfl
  · exact bufRead_of_ofId_none (Space.ofId_eq_none h)
  · rintro (⟨rfl, hi⟩ | ⟨rfl, hi⟩ | ⟨rfl, hi⟩ | ⟨rfl, hi⟩) <;> exact (bufRead_of_size_le rfl hi).trans rfl
  all_goals
    rintro ⟨rfl, hi⟩
    exact (bufRead_of_size_le rfl hi).trans rfl

/-! ### Output beyond its buffer (R69) -/

section
variable {P : Params} {s : State} {r : Refusal}

theorem bounded_eq_refused_iff {len : Nat} {body : State → Result} :
    bounded len body s = .refused r ↔ len ≤ s.cfgMaxInput.toNat ∧ body s = .refused r := by
  rcases bounded_cases len body s with ⟨h, e⟩ | ⟨h, e⟩ <;> rw [e]
  · exact ⟨nofun, fun h' => absurd h'.1 (not_le.mpr h)⟩
  · exact ⟨fun hr => ⟨h, hr⟩, And.right⟩

theorem fitting_next_eq_refused_iff {sp : Space} {cap len : Nat} {t : State} :
    fitting sp cap len (.next t) = .refused r ↔ cap < len ∧ r = .bufferOverflow sp := by
  by_cases h : cap < len
  · rw [fitting_of_lt _ h]
    exact ⟨fun e => by cases e; exact ⟨h, rfl⟩, fun ⟨_, e⟩ => e ▸ rfl⟩
  · rw [fitting_of_le _ (not_lt.mp h)]
    exact ⟨nofun, fun h' => absurd h'.1 h⟩

theorem emitBody_eq_refused_iff : emitBody P s = .refused r ↔ s.inSize ≤ s.cfgMaxInput.toNat ∧
    P.bitsCap < (emit s.code s.inputBytes).bits.length ∧ r = .bufferOverflow .bits := by
  rw [emitBody, bounded_eq_refused_iff]
  refine and_congr_right fun _ => ?_
  dsimp only
  cases (emit s.code s.inputBytes).unknown <;> exact fitting_next_eq_refused_iff

theorem exportBody_eq_refused_iff : exportBody P s = .refused r ↔ s.bitsSize ≤ s.cfgMaxInput.toNat ∧
    P.blobCap < (container P s.code s.payload).length ∧ r = .bufferOverflow .blob :=
  bounded_eq_refused_iff.trans (and_congr_right fun _ => fitting_next_eq_refused_iff)

/-- DECT and DECR, whatever bytes `l` they decode. -/
theorem decode_eq_refused_iff {l : List Byte} : bounded s.bitsSize (emitDecoded P l) s = .refused r ↔
    s.bitsSize ≤ s.cfgMaxInput.toNat ∧ P.outCap < l.length ∧ r = .bufferOverflow .out :=
  bounded_eq_refused_iff.trans (and_congr_right fun _ => fitting_next_eq_refused_iff)

theorem importBody_eq_refused_iff : importBody P s = .refused r ↔ s.blobSize ≤ s.cfgMaxInput.toNat ∧
    P.bitsCap < (imported P s).2.1.length ∧ r = .bufferOverflow .bits := by
  rw [importBody_eq, bounded_eq_refused_iff]
  exact and_congr_right fun _ => fitting_next_eq_refused_iff

theorem encodeBody_eq_refused_iff (hs : s.status = 0#8) : encodeBody P s = .refused r ↔
    s.inSize ≤ s.cfgMaxInput.toNat ∧ P.bitsCap < (emit s.withTables.code s.inputBytes).bits.length ∧
      r = .bufferOverflow .bits := by
  rcases encodeBody_cases P s with ⟨h, e⟩ | ⟨h, -⟩
  · rw [e]
    exact ⟨nofun, fun h' => absurd h'.1 (not_le.mpr h)⟩
  · rw [encodeBody_eq_fitting P hs h, fitting_next_eq_refused_iff]
    exact (and_iff_right h).symm

end

/-- EMIT's loop writes the codes of covered bytes, then goes on behind them (44_bitstream_encoder.md R186). -/
theorem emitFrom_append {t : CodeTable} {y : List Byte} : ∀ {x : List Byte} {i : Nat}, Covers t x → emitFrom t i (x ++ y) =
    ⟨codesOf t x ++ (emitFrom t (i + x.length) y).bits, (emitFrom t (i + x.length) y).unknown⟩
  | [], _, _ => rfl
  | b :: x, i, h => by
    obtain ⟨c, hc⟩ := Option.isSome_iff_exists.mp (h b List.mem_cons_self)
    have ih := emitFrom_append (y := y) (i := i + 1) fun a ha => h a (List.mem_cons_of_mem b ha)
    simp only [List.cons_append, emitFrom, hc, ih, codesOf, List.flatMap_cons, codeOf, Option.getD_some, List.append_assoc,
      List.length_cons, Nat.add_assoc, Nat.add_comm 1]

theorem length_codesOf_le_emit {t : CodeTable} {x : List Byte} (h : Covers t x) (y : List Byte) :
    (codesOf t x).length ≤ (emit t (x ++ y)).bits.length := by
  rw [emit, emitFrom_append h, List.length_append]
  exact Nat.le_add_right _ _

theorem length_container (P : Params) (t : CodeTable) (b : Bits) :
    (container P t b).length = P.magic.length + 4 + (P.tbl.ser t).length + ceil8 b.length := by
  simp only [container, List.length_append, length_le32, length_pack]

/-- Settles O25: past its capacity check each of these commands is refused exactly when its output is too long, and EMIT's output
is at least as long as the codes up to the overflow. -/
theorem outputBeyondItsBufferIsRefused : Obligations.OutputBeyondItsBufferIsRefused := by
  refine ⟨fun s => ⟨rfl, rfl, rfl, rfl⟩, fun P s => ⟨fun pre b post hin hx hcov hcap => ?_, fun hin hcap => ?_,
    fun hin hcap => decode_eq_refused_iff.mpr ⟨hin, hcap, rfl⟩,
    fun hin hcap => decode_eq_refused_iff.mpr ⟨hin, hcap, rfl⟩⟩⟩
  · have hle := length_codesOf_le_emit hcov post
    rw [List.append_assoc, List.singleton_append, ← hx] at hle
    exact emitBody_eq_refused_iff.mpr ⟨hin, hcap.trans_le hle, rfl⟩
  · rw [← length_payload s, ← length_container] at hcap
    exact exportBody_eq_refused_iff.mpr ⟨hin, hcap, rfl⟩

/-! ### A decode never outgrows OUT (45_bitstream_decoder.md R221) -/

theorem length_dectFrom_le (t : CodeTable) : ∀ bs buf : Bits, (dectFrom t buf bs).length ≤ bs.length
  | [], _ => Nat.le_refl 0
  | b :: bs, buf => by
    rw [dectFrom]
    split
    · exact Nat.succ_le_succ (length_dectFrom_le t bs [])
    · exact (length_dectFrom_le t bs _).trans (Nat.le_succ _)

theorem length_decrFrom_le (N : Arena) (root : NodeIdx) : ∀ (bs : Bits) (cur : NodeIdx),
    (decrFrom N root cur bs).length ≤ bs.length
  | [], _ => Nat.le_refl 0
  | b :: bs, cur => by
    have hskip (j : NodeIdx) : (decrFrom N root j bs).length ≤ (b :: bs).length :=
      (length_decrFrom_le N root bs j).trans (Nat.le_succ _)
    rw [decrFrom]
    generalize (if b then (nodeAt N cur).right else (nodeAt N cur).left) = ch
    by_cases hch : ch = NIL
    · rw [if_pos hch]
      exact hskip root
    · rw [if_neg hch]
      cases nodeAt N ch with
      | leaf a w => exact Nat.succ_le_succ (length_decrFrom_le N root bs root)
      | free => exact hskip ch
      | internal w l r => exact hskip ch

theorem length_dect_le (t : CodeTable) (b : Bits) : (dect t b).length ≤ b.length := length_dectFrom_le t b []

theorem length_decr_le (N : Arena) (root : NodeIdx) (b : Bits) : (decr N root b).length ≤ b.length := by
  rw [decr]
  split
  · exact Nat.zero_le _
  · exact length_decrFrom_le N root b root

/-! ### What is refused -/

theorem issues_of_commandWord {op : HostOp} {c : BitVec 8} (h : commandWord op = some c) : Issues op c := by
  unfold commandWord at h
  split at h <;> cases h
  · exact .inl rfl
  · exact .inr ⟨_, rfl, rfl⟩

theorem opcode_of_decodeOp {op : BitVec 4} {i : Instr} (h : decodeOp op = .ok i) : opcode i = op := by
  unfold decodeOp at h
  split at h <;> cases h <;> exact BitVec.eq_of_toNat_eq (Eq.symm ‹_›)

/-- A word that decodes is the word of its command (30_encoding.md R91). -/
theorem encode_of_decode {c : BitVec 8} {i : Instr} (h : decode c = .ok i) : encode i = c := by
  unfold decode at h
  split at h
  · rename_i hz
    rw [encode, opcode_of_decodeOp h, ← hz]
    exact BitVec.extractLsb'_append_extractLsb'
  · cases h

section
variable {P : Params} {s : State} {r : Refusal}

/-- A step is refused for an ill-typed write, or because the command it runs is. -/
theorem stepAt_refused (h : stepAt P s = .refused r) :
    (r = .illTypedElement ∧ ∃ sp i e rest, s.pending = .bufWrite sp i e :: rest ∧ (HostOp.bufWrite sp i e).wf = false) ∨
    ∃ op rest i, s.pending = op :: rest ∧ Issues op (encode i) ∧ execAt P i (s.accept rest) = .refused r := by
  rcases stepAt_cases P s with ⟨-, hs⟩ | ⟨op, rest, hp, ⟨c, i, hc, hd, hs⟩ | ⟨c, e, -, -, hs⟩ | ⟨-, hs⟩⟩
  · cases hs.symm.trans h
  · exact .inr ⟨op, rest, i, hp, encode_of_decode hd ▸ issues_of_commandWord hc, hs.symm.trans h⟩
  · cases hs.symm.trans h
  · have hacc := hs.symm.trans h
    cases op with
    | bufWrite sp i e =>
      rw [access] at hacc
      split at hacc <;> cases hacc
      exact .inl ⟨rfl, sp, i, e, rest, hp, Bool.eq_false_of_not_eq_true ‹_›⟩
    | _ => cases hacc

theorem countBody_not_refused : countBody s ≠ .refused r := fun hr => nomatch (bounded_eq_refused_iff.mp hr).2

/-- From the invariant of legal parameters a decode is never refused, whatever bytes `l` it makes of the payload. -/
theorem decode_not_refused (hP : P.Legal) (h : InvAt P s) {l : List Byte} (hl : l.length ≤ s.bitsLen.toNat) :
    bounded s.bitsSize (emitDecoded P l) s ≠ .refused r := by
  intro hr
  obtain ⟨hin, hcap, -⟩ := decode_eq_refused_iff.mp hr
  have hcfg := h.cfg
  have hout := hP.outCap
  simp only [State.bitsSize, ceil8] at hin
  omega

theorem length_imported_le_limit (h : InvAt P s) (hin : s.blobSize ≤ s.cfgMaxInput.toNat) :
    (imported P s).2.1.length ≤ 8 * P.maxInputLimit.toNat :=
  (length_imported_le P s).trans (Nat.mul_le_mul_left 8 (hin.trans h.cfg))

theorem importBody_not_refused (hP : P.Legal) (h : InvAt P s) : importBody P s ≠ .refused r := by
  intro hr
  obtain ⟨hin, hcap, -⟩ := importBody_eq_refused_iff.mp hr
  exact absurd hcap (not_lt.mpr ((length_imported_le_limit h hin).trans hP.bitsCapLow))

theorem unpackBody_not_refused (hP : P.Legal) (h : InvAt P s) (hs : s.status = 0#8) : unpackBody P s ≠ .refused r := by
  rcases unpackBody_outcome hP.bitsCapHigh hs with ⟨-, e⟩ | ⟨hin, hbits, -⟩ | ⟨hin, -, e⟩
  · rw [e]
    exact nofun
  · exact absurd hbits (not_lt.mpr ((length_imported_le_limit h hin).trans hP.bitsCapLow))
  · have hfit := ((length_dect_le (imported P s).1 _).trans (length_imported_le_limit h hin)).trans hP.outCap
    rw [e, emitDecoded, fitting_of_le _ hfit]
    exact nofun

/-- From the invariant of legal parameters a command is refused only for bits of EMIT or ENCODE, or for a blob of EXPORT that
is longer than BLOB_CAP. -/
theorem execAt_refused (hP : P.Legal) (h : InvAt P s) {i : Instr} (hr : execAt P i s = .refused r) :
    (r = .bufferOverflow .bits ∧ (i = .emit ∨ i = .encode)) ∨
    (r = .bufferOverflow .blob ∧ i = .exportContainer ∧ s.bitsSize ≤ s.cfgMaxInput.toNat ∧
      P.blobCap < 8 + (P.tbl.ser s.code).length + s.bitsSize) := by
  have h0 := h.clearStatus
  cases i with
  | sreset => cases hr
  | count => exact absurd hr countBody_not_refused
  | build => cases (buildBody_eq s.clearStatus).symm.trans hr
  | walk => cases (walkBody_eq s.clearStatus).symm.trans hr
  | emit =>
    obtain ⟨-, -, rfl⟩ := emitBody_eq_refused_iff.mp hr
    exact .inl ⟨rfl, .inl rfl⟩
  | dect => exact absurd hr (decode_not_refused hP h0 ((length_dect_le _ _).trans_eq (length_payload s)))
  | decr => exact absurd hr (decode_not_refused hP h0 ((length_decr_le _ _ _).trans_eq (length_payload s)))
  | exportContainer =>
    obtain ⟨hin, hcap, rfl⟩ := exportBody_eq_refused_iff.mp hr
    rw [length_container, length_payload, hP.magicLength] at hcap
    exact .inr ⟨rfl, rfl, hin, hcap⟩
  | importContainer => exact absurd hr (importBody_not_refused hP h0)
  | encode =>
    obtain ⟨-, -, rfl⟩ := (encodeBody_eq_refused_iff rfl).mp hr
    exact .inl ⟨rfl, .inr rfl⟩
  | unpack => exact absurd hr (unpackBody_not_refused hP h0 rfl)

end

/-- The longest container the bound admits fits BLOB (46_container_codec.md R233, log 2). -/
theorem containerSize_le_blobCap {s : State} (h : s.Inv) (hin : s.bitsSize ≤ s.cfgMaxInput.toNat) :
    8 + (params.tbl.ser s.code).length + s.bitsSize ≤ params.blobCap := by
  have htbl : (params.tbl.ser s.code).length ≤ 8707 := length_tblSer_le h.code
  have hlimit : s.bitsSize ≤ 268435455 := hin.trans h.cfg
  have hcap : params.blobCap = 268444170 := rfl
  omega

/-- Settles O60: legal parameters leave room for whatever a decode or an IMPORT writes within the bound, and the parameters
of `step` for whatever an EXPORT writes. -/
theorem onlyOverflowAndIllTypedWritesAreRefused : Obligations.OnlyOverflowAndIllTypedWritesAreRefused := by
  refine ⟨fun P s hP h => ⟨nofun, fun r hr => ?_⟩, fun s h hr => ?_⟩
  · rcases stepAt_refused hr with hill | ⟨op, rest, i, hp, hi, hexec⟩
    · exact .inl hill
    · rcases execAt_refused hP (h.accept rest) hexec with ⟨rfl, hbits⟩ | ⟨rfl, rfl, -, hcap⟩
      · exact .inr (.inl ⟨rfl, op, rest, _, hp, hi, hbits.imp (by rintro rfl; rfl) (by rintro rfl; rfl)⟩)
      · exact .inr (.inr ⟨rfl, hcap, op, rest, hp, hi⟩)
  · rcases stepAt_refused (step_eq_stepAt s ▸ hr) with ⟨hill, -⟩ | ⟨op, rest, i, -, -, hexec⟩
    · cases hill
    · rcases execAt_refused params_legal (h.accept rest) hexec with ⟨hbits, -⟩ | ⟨-, -, hin, hcap⟩
      · cases hbits
      · exact absurd hcap (not_lt.mpr (containerSize_le_blobCap (h.accept rest) hin))

end Sys2Proof.Machine
end

section
/-! SUPPORT. The opcode map both ways (30_encoding.md R91, R93). -/

namespace Sys2Proof

/-- Every command, in the order of the opcode map. -/
def commands : List Instr :=
  [.sreset, .count, .build, .walk, .emit, .dect, .decr, .exportContainer, .importContainer, .encode, .unpack]

theorem mem_commands (i : Instr) : i ∈ commands := by cases i <;> decide

theorem decode_encode (i : Instr) : decode (encode i) = .ok i := by cases i <;> rfl

/-- Each command is exactly one byte value (R91). -/
theorem decode_eq_ok_iff {w : BitVec 8} {i : Instr} : decode w = .ok i ↔ encode i = w := by
  constructor
  · exact Machine.encode_of_decode
  · rintro rfl
    exact decode_encode i

/-- The command words are 0x01 to 0x0B, in the order of the opcode map. -/
theorem map_encode_commands : commands.map (fun i => (encode i).toNat) = List.range' 1 11 := rfl

theorem exists_decode_eq_ok_iff {w : BitVec 8} : (∃ i, decode w = .ok i) ↔ 1 ≤ w.toNat ∧ w.toNat < 12 := by
  have hmem := List.mem_range'_1 (m := w.toNat) (s := 1) (n := 11)
  rw [← map_encode_commands] at hmem
  simpa [decode_eq_ok_iff, mem_commands, BitVec.toNat_inj] using hmem

/-- The words that encode no command (R93). -/
theorem exists_decode_eq_error_iff {w : BitVec 8} : (∃ e, decode w = .error e) ↔ w.toNat = 0 ∨ 11 < w.toNat := by
  have hok := exists_decode_eq_ok_iff (w := w)
  cases h : decode w with
  | ok i =>
    obtain ⟨h1, h2⟩ := hok.mp ⟨i, h⟩
    exact iff_of_false nofun (by omega)
  | error e =>
    have hnot : ¬ (1 ≤ w.toNat ∧ w.toNat < 12) := by simpa [h] using hok
    exact iff_of_true ⟨e, rfl⟩ (by omega)

/-- Settles O1: the rows of the map are the commands, each with the word that encodes it. -/
theorem opcodeMapIsComplete : Obligations.OpcodeMapIsComplete := by
  intro w i
  change _ ↔ (w.toNat, i) ∈ commands.map fun i => ((encode i).toNat, i)
  rw [decode_eq_ok_iff, ← BitVec.toNat_inj]
  simp [mem_commands]

end Sys2Proof
end

section
/-! SUPPORT. The STATUS an issued word leaves (30_encoding.md R95, 60_exceptions.md R283 to R287). -/

namespace Sys2Proof.Machine

/-! ### One flag raised from STATUS 0 -/

/-- STATUS with no flag, or with one that a command raises. -/
def oneFlagValues : List (BitVec 8) := [0x00#8, EMPTY, DEGRADED, UNKNOWN_SYMBOL, CAPACITY]

theorem oneFlagValues_spec : ∀ v ∈ oneFlagValues, v ∈ statusValues ∧ v ≠ 0x03#8 ∧ v ≠ 0x10#8 := by decide

section
variable {P : Params} {s t : State} {f : BitVec 8}

theorem flag_status_mem (hs : s.status = 0#8) (hf : f ∈ oneFlagValues) : (s.flag f).status ∈ oneFlagValues := by
  simpa [hs] using hf

theorem flagIf_empty_status_mem (hs : s.status = 0#8) (c : Bool) : (s.flagIf c EMPTY).status ∈ oneFlagValues := by
  cases c
  · simp [hs, oneFlagValues]
  · exact flag_status_mem hs (by decide)

theorem flag_capacity_status_mem (hs : s.status = 0#8) : (s.flag CAPACITY).status ∈ oneFlagValues :=
  flag_status_mem hs (by decide)

/-! ### The commands that raise at most one flag -/

theorem countBody_status (hs : s.status = 0#8) (h : countBody s = .next t) : t.status ∈ oneFlagValues := by
  rcases countBody_cases s with ⟨-, e⟩ | ⟨-, e⟩ <;> cases e.symm.trans h
  · exact flag_capacity_status_mem hs
  · exact flagIf_empty_status_mem (by simpa using hs) _

theorem emitBody_status (hs : s.status = 0#8) (h : emitBody P s = .next t) : t.status ∈ oneFlagValues := by
  rcases emitBody_cases P s with ⟨-, e⟩ | ⟨-, -, e⟩ | ⟨-, -, sym, pos, -, e⟩ | ⟨-, -, -, e⟩ <;> cases e.symm.trans h
  · exact flag_capacity_status_mem hs
  · exact flag_status_mem hs (f := UNKNOWN_SYMBOL) (by decide)
  · exact flagIf_empty_status_mem (by simpa using hs) _

/-- DECT and DECR, whatever bytes `l` they decode. -/
theorem decode_status {l : List Byte} (hs : s.status = 0#8) (h : bounded s.bitsSize (emitDecoded P l) s = .next t) :
    t.status ∈ oneFlagValues := by
  rcases bounded_cases s.bitsSize (emitDecoded P l) s with ⟨-, e⟩ | ⟨-, e⟩
  · cases e.symm.trans h
    exact flag_capacity_status_mem hs
  · rcases emitDecoded_cases P l s with ⟨-, e'⟩ | ⟨-, e'⟩ <;> cases (e.trans e').symm.trans h
    exact flagIf_empty_status_mem (by simpa using hs) _

theorem exportBody_status (hs : s.status = 0#8) (h : exportBody P s = .next t) : t.status ∈ oneFlagValues := by
  rcases exportBody_cases P s with ⟨-, e⟩ | ⟨-, -, e⟩ | ⟨-, -, e⟩ <;> cases e.symm.trans h
  · exact flag_capacity_status_mem hs
  · exact flagIf_empty_status_mem (by simpa using hs) _

theorem encodeBody_status (hs : s.status = 0#8) (h : encodeBody P s = .next t) : t.status ∈ oneFlagValues := by
  rcases encodeBody_outcome P hs with ⟨-, e⟩ | ⟨-, -, e⟩ | ⟨-, -, e⟩ <;> cases e.symm.trans h
  · exact flag_capacity_status_mem hs
  · exact flagIf_empty_status_mem (by simpa using hs) _

/-! ### IMPORT and UNPACK -/

/-- STATUS with at most one flag, or EMPTY and DEGRADED for a blob of length 0 (60_exceptions.md R287). -/
def ImportStatus (s : State) (v : BitVec 8) : Prop := v ∈ oneFlagValues ∨ v = 0x03#8 ∧ s.blobLen = 0#32

/-- When the blob is no container, IMPORT takes all of its bits (46_container_codec.md R246). -/
theorem imported_bits_of_degraded (h : (imported P s).2.2 = true) : (imported P s).2.1 = unpack s.blobBytes := by
  unfold imported at h ⊢
  cases hp : parseContainer P s.blobBytes with
  | none => rfl
  | some q => simp [hp] at h

/-- A fallback leaves no bits only for a blob of length 0. -/
theorem blobLen_of_degraded (hfit : (imported P s).2.1.length < 2 ^ 32) (hdeg : (imported P s).2.2 = true)
    (hempty : (s.withImported P).bitsLen = 0#32) : s.blobLen = 0#32 := by
  have hlen : (imported P s).2.1.length = 8 * s.blobLen.toNat := by
    rw [imported_bits_of_degraded hdeg, length_unpack, length_blobBytes]
  have hbits : BitVec.ofNat 32 (imported P s).2.1.length = 0#32 := by simpa [State.withImported] using hempty
  rw [← BitVec.toNat_inj, BitVec.toNat_ofNat, Nat.mod_eq_of_lt hfit] at hbits
  exact BitVec.eq_of_toNat_eq (by simp only [BitVec.toNat_ofNat, Nat.zero_mod] at hbits ⊢; omega)

/-- A further EMPTY that meets DEGRADED only for a blob of length 0 keeps STATUS among the values of IMPORT. -/
theorem withImported_flagIf_status (hs : s.status = 0#8) (c : Bool)
    (hc : (imported P s).2.2 = true → c = true → s.blobLen = 0#32) :
    ImportStatus s ((s.withImported P).flagIf c EMPTY).status := by
  simp only [State.withImported, State.flagIf_status, State.withBits_status, State.withCode_status, hs]
  by_cases hb : s.blobLen = 0#32
  · refine .imp id (⟨·, hb⟩) ?_
    rw [hb]
    cases (imported P s).2.2 <;> cases c <;> decide
  · refine .inl ?_
    rw [beq_false_of_ne hb]
    cases hdeg : (imported P s).2.2
    · cases c <;> decide
    · have hc' : c = false := Bool.eq_false_of_not_eq_true fun h => hb (hc hdeg h)
      rw [hc']
      decide

theorem importBody_status (hs : s.status = 0#8) (h : importBody P s = .next t) : ImportStatus s t.status := by
  rcases importBody_cases P s with ⟨-, e⟩ | ⟨-, -, e⟩ | ⟨-, -, e⟩ <;> cases e.symm.trans h
  · exact .inl (flag_capacity_status_mem hs)
  · exact withImported_flagIf_status hs false nofun

theorem unpackBody_status (hP : P.bitsCap < 2 ^ 32) (hs : s.status = 0#8) (h : unpackBody P s = .next t) :
    ImportStatus s t.status := by
  rcases unpackBody_outcome hP hs with ⟨-, e⟩ | ⟨-, -, e⟩ | ⟨-, hfit, e⟩
  · cases e.symm.trans h
    exact .inl (flag_capacity_status_mem hs)
  · cases e.symm.trans h
  · rcases emitDecoded_cases P (dect (imported P s).1 (imported P s).2.1) (s.withImported P) with ⟨-, e'⟩ | ⟨-, e'⟩ <;>
      cases (e.trans e').symm.trans h
    rw [State.flagIf_status, State.withOut_status, ← State.flagIf_status]
    exact withImported_flagIf_status hs _ fun hdeg hempty =>
      blobLen_of_degraded (hfit.trans_lt hP) hdeg (beq_iff_eq.mp hempty)

/-! ### Every command, and the issue of a word -/

theorem exec_status {i : Instr} (h : exec i s = .next t) : t.status ∈ oneFlagValues ∨
    t.status = 0x03#8 ∧ (i = .importContainer ∨ i = .unpack) ∧ s.blobLen = 0#32 := by
  cases i with
  | sreset => cases h; exact .inl List.mem_cons_self
  | count => exact .inl (countBody_status rfl h)
  | build => cases (buildBody_eq s.clearStatus).symm.trans h; exact .inl (flagIf_empty_status_mem rfl _)
  | walk => cases (walkBody_eq s.clearStatus).symm.trans h; exact .inl (flagIf_empty_status_mem rfl _)
  | emit => exact .inl (emitBody_status rfl h)
  | dect => exact .inl (decode_status (l := dect s.code s.payload) rfl h)
  | decr => exact .inl (decode_status (l := decr s.node s.root s.payload) rfl h)
  | exportContainer => exact .inl (exportBody_status rfl h)
  | importContainer => exact (importBody_status rfl h).imp id fun ⟨hv, hb⟩ => ⟨hv, .inl rfl, hb⟩
  | encode => exact .inl (encodeBody_status rfl h)
  | unpack => exact (unpackBody_status params_legal.bitsCapHigh rfl h).imp id fun ⟨hv, hb⟩ => ⟨hv, .inr rfl, hb⟩

end

section
variable {s : State} {op : HostOp} {rest : List HostOp} {c : BitVec 8}

/-- A step that issues a word runs it (40_host_access.md R124). -/
theorem step_of_issues (hp : s.pending = op :: rest) (hi : Issues op c) : step s = issue c (s.accept rest) := by
  simp only [step, stepWith, hp, commandWord_of_issues hi]
  rfl

theorem issue_of_decode_ok {i : Instr} (hd : decode c = .ok i) : issue c s = exec i s := by
  rw [issue, issueWith, hd]

theorem issue_of_decode_error {e : DecodeError} (hd : decode c = .error e) :
    issue c s = .next (s.clearStatus.flag ILLEGAL_CMD) := by
  rw [issue, issueWith, hd]
  rfl

end

/-- What a word leaves in STATUS (R95, R287). -/
theorem issue_status {s t : State} {c : BitVec 8} (h : issue c s = .next t) :
    t.status ∈ statusValues ∧ (t.status = 0x03#8 → (c = 0x09#8 ∨ c = 0x0B#8) ∧ s.blobLen = 0#32) ∧
      (t.status = 0x10#8 ↔ (c.toNat = 0 ∨ 11 < c.toNat)) := by
  rw [← exists_decode_eq_error_iff]
  cases hd : decode c with
  | ok i =>
    have hlegal : ¬ ∃ e, (.ok i : Except DecodeError Instr) = .error e := nofun
    rcases exec_status ((issue_of_decode_ok hd).symm.trans h) with hone | ⟨hv, hi, hb⟩
    · obtain ⟨hmem, h3, h10⟩ := oneFlagValues_spec _ hone
      exact ⟨hmem, fun h => absurd h h3, iff_of_false h10 hlegal⟩
    · rw [hv, ← decode_eq_ok_iff.mp hd]
      exact ⟨by decide, fun _ => ⟨hi.imp (congrArg encode) (congrArg encode), hb⟩, iff_of_false (by decide) hlegal⟩
  | error e =>
    have hv : t.status = 0x10#8 := by
      cases (issue_of_decode_error hd).symm.trans h
      exact BitVec.zero_or
    rw [hv]
    exact ⟨by decide, fun h => absurd h (by decide), iff_of_true rfl ⟨e, rfl⟩⟩

/-! ### Each value occurs -/

/-- A step that issues a word from a state of the invariant with another STATUS leaves the STATUS `v`. -/
def StatusOccurs (v : BitVec 8) : Prop :=
  ∃ (s t : State) (op : HostOp) (rest : List HostOp) (c : BitVec 8), s.Inv ∧ s.status ≠ v ∧ s.pending = op :: rest ∧
    Issues op c ∧ step s = .next t ∧ t.status = v

theorem StatusOccurs.of_issue {s t : State} {c v : BitVec 8} (hI : s.Inv) (hv : s.status ≠ v)
    (h : issue c (s.accept []) = .next t) (ht : t.status = v) : StatusOccurs v :=
  ⟨{ s with pending := [.issue c] }, t, .issue c, [], c, { hI with }, hv, rfl, .inl rfl, h, ht⟩

theorem reset_inv : State.reset.Inv := resetMeetsTheInvariant.2

/-- SRESET after a command that set EMPTY. -/
theorem statusOccurs_zero : StatusOccurs 0x00#8 :=
  .of_issue (c := 0x01#8) (reset_inv.withStatus (v := 0x01#8) (by decide)) (by decide) rfl rfl

/-- WALK of the empty tree. -/
theorem statusOccurs_empty : StatusOccurs 0x01#8 := .of_issue (c := 0x04#8) reset_inv (by decide) rfl rfl

/-- IMPORT of one byte, whatever it is. -/
theorem statusOccurs_degraded : StatusOccurs 0x02#8 :=
  .of_issue (s := { State.reset with blobLen := 1#32 }) (c := 0x09#8) { reset_inv with } (by decide) rfl rfl

/-- IMPORT of a blob of length 0. -/
theorem statusOccurs_empty_degraded : StatusOccurs 0x03#8 := .of_issue (c := 0x09#8) reset_inv (by decide) rfl rfl

/-- EMIT of one byte with no table. -/
theorem statusOccurs_unknownSymbol : StatusOccurs 0x04#8 :=
  .of_issue (s := { State.reset with inLen := 1#32, input := [(0, 0x41#8)] }) (c := 0x05#8)
    { reset_inv with input := rfl } (by decide) rfl rfl

/-- COUNT of one byte more than CFG_MAX_INPUT admits. -/
theorem statusOccurs_capacity : StatusOccurs 0x08#8 :=
  .of_issue (s := { State.reset with inLen := 65537#32 }) (c := 0x02#8) { reset_inv with } (by decide) rfl rfl

/-- The reserved word 0x00. -/
theorem statusOccurs_illegalCmd : StatusOccurs 0x10#8 := .of_issue (c := 0x00#8) reset_inv (by decide) rfl rfl

/-- Settles O55: a command starts from STATUS 0 and raises one flag at most, but for IMPORT and UNPACK of a blob of length 0;
one small state for each value shows that it occurs. -/
theorem statusValuesAreExactlySeven : Obligations.StatusValuesAreExactlySeven := by
  refine ⟨fun s t op rest c hp hi h => issue_status (s := s.accept rest) ((step_of_issues hp hi).symm.trans h), ?_⟩
  change ∀ v ∈ _, StatusOccurs v
  simp [statusOccurs_zero, statusOccurs_empty, statusOccurs_degraded, statusOccurs_empty_degraded,
    statusOccurs_unknownSymbol, statusOccurs_capacity, statusOccurs_illegalCmd]

end Sys2Proof.Machine
end

section
/-! SUPPORT. What a step does with each host operation (40_host_access.md R120 to R124): the issue of a word, the accesses to
the registers, and those to the buffer spaces within range (10_state.md R37 to R40). -/

namespace Sys2Proof.Machine

/-! ### The issue of a command, and no operation (R124) -/

theorem step_of_pending_nil {s : State} (h : s.pending = []) : step s = .next s := by
  rw [step, stepWith, h]
  rfl

theorem ofNat_encode_toNat (i : Instr) : BitVec.ofNat 8 ((encode i).toNat % 2 ^ 8) = encode i := by
  rw [Nat.mod_eq_of_lt (encode i).isLt, BitVec.ofNat_toNat, BitVec.setWidth_eq]

theorem decodeTableWord_encode (i : Instr) : decodeTableWord 8 (encode i).toNat = some i := by
  rw [decodeTableWord, ofNat_encode_toNat, decode_encode]

/-- The command placed by `withFetchWord` is the next operation. -/
theorem withFetchWord_encode (s : State) (i : Instr) :
    s.withFetchWord 8 (encode i).toNat = { s with pending := .issue (encode i) :: s.pending } := by
  rw [State.withFetchWord, ofNat_encode_toNat]

/-- Settles O3: an issued word runs the command it decodes to, and the word of a command decodes to that command. -/
theorem stepRunsTheIssuedCommand : Obligations.StepRunsTheIssuedCommand := by
  refine ⟨fun s op rest c i hp hi hd => ?_, fun s i => ⟨decodeTableWord_encode i, ?_⟩, fun s => step_of_pending_nil⟩
  · exact (step_of_issues hp hi).trans (issue_of_decode_ok hd)
  · rw [withFetchWord_encode, step_of_issues rfl (.inl rfl), issue_of_decode_ok (decode_encode i)]
    rfl

/-! ### The registers (R121, R122) -/

theorem step_of_access {s : State} {op : HostOp} {rest : List HostOp} (hp : s.pending = op :: rest)
    (hc : commandWord op = none) : step s = access params op (s.accept rest) := by
  simp only [step, stepWith, hp, hc]

/-- What the host reads of the registers 0 to 13, in order; CMD reads as 0 (10_state.md R23, R24). -/
def State.registers (s : State) : List Word :=
  [0#32, s.status.setWidth 32, s.cfgMaxInput, s.inLen, s.bitsLen, s.outLen, s.blobLen, s.root.setWidth 32,
    s.unique.setWidth 32, s.origBits, s.encBits, s.ratioX100, s.errSym.setWidth 32, s.errPos]

theorem regRead_eq_getD_registers (s : State) : ∀ n, regRead n s = s.registers.getD n 0#32
  | 0 | 1 | 2 | 3 | 4 | 5 | 6 | 7 | 8 | 9 | 10 | 11 | 12 | 13 => rfl
  | _ + 14 => rfl

/-- Settles O5: a RegRead is no issue, and what it returns is the register's entry of the list. -/
theorem regReadReturnsTheRegister : Obligations.RegReadReturnsTheRegister := by
  intro s n rest hp
  rw [step_of_access hp rfl, access, regRead_eq_getD_registers]
  rfl

theorem clampCfg_toNat (P : Params) (v : Word) : (clampCfg P v).toNat = min v.toNat P.maxInputLimit.toNat := by
  unfold clampCfg
  split
  · exact (min_eq_left ‹_›).symm
  · exact (min_eq_right (by omega)).symm

/-- The other registers are read-only, reserved, or CMD. -/
theorem regWrite_of_ne (P : Params) (s : State) (v : Word) {n : Nat} (h2 : n ≠ 2) (h3 : n ≠ 3) (h4 : n ≠ 4)
    (h6 : n ≠ 6) : regWrite P n v s = s := by
  unfold regWrite
  split
  case h_5 => rfl
  all_goals contradiction

/-- Settles O6: RegWrite(0, v) is the issue of v[7:0], and every other RegWrite is `regWrite`, register by register. -/
theorem regWriteStoresOrIsIgnored : Obligations.RegWriteStoresOrIsIgnored := by
  refine ⟨fun P s v => ⟨clampCfg P v, clampCfg_toNat P v, rfl, rfl, rfl, rfl, fun n => regWrite_of_ne P s v⟩,
    fun s n v rest hp => ⟨?_, fun hn => ?_⟩⟩
  · rintro rfl
    exact step_of_issues hp (.inr ⟨v, rfl, rfl⟩)
  · obtain ⟨m, rfl⟩ := Nat.exists_eq_succ_of_ne_zero hn
    exact step_of_access hp rfl

/-! ### Reads of the buffer spaces within range (R123, R37 to R40) -/

theorem Mem.getD_read {α : Type} (free : Nat → α) (n : Nat) (m : List (Nat × α)) (i : Nat) (d : α) :
    (Mem.read free n m).getD i d = if i < n then (Mem.lookup i m).getD (free i) else d := by
  split
  · rw [List.getD_eq_getElem _ _ (by simpa), Mem.getElem_read]
  · exact List.getD_eq_default _ _ (by simpa using ‹¬ i < n›)

theorem pack_getD {b : Bits} {i : Nat} (h : i < ceil8 b.length) (d : Byte) : (pack b).getD i d = packByte b i := by
  rw [List.getD_eq_getElem _ _ (by simpa)]
  simp [pack]

section
variable {P : Params} {s : State} {sp i : Nat} {k : Space}

theorem bufRead_of_lt_size (hk : Space.ofId sp = some k) (hi : i < k.size P) : bufRead P sp i s = readElem k i s := by
  rw [bufRead, hk]
  exact if_pos hi

theorem bufWrite_of_lt_size (hk : Space.ofId sp = some k) (hi : i < k.size P) (e : Elem) :
    bufWrite P sp i e s = writeElem P k i e s := by
  rw [bufWrite, hk]
  exact if_pos hi

theorem bufRead_freq (P : Params) (s : State) (b : Byte) : bufRead P 2 b.toNat s = .word32 (s.freq.at b) := by
  rw [bufRead_of_lt_size (k := .freq) rfl b.toNat_lt, readElem, BitVec.ofNat_toNat, BitVec.setWidth_eq]

theorem readElem_out (h : i < s.outLen.toNat) : readElem .out i s = .byte (s.outBytes.getD i 0#8) := by
  rw [readElem, State.outBytes, Mem.getD_read, if_pos h, if_pos h, byteOrFree]

theorem readElem_blob (h : i < s.blobLen.toNat) : readElem .blob i s = .byte (s.blobBytes.getD i 0#8) := by
  rw [readElem, State.blobBytes, Mem.getD_read, if_pos h, if_pos h, byteOrFree]

/-- The host's view of BITS is the packed payload. -/
theorem readElem_bits (h : i < ceil8 s.bitsLen.toNat) : readElem .bits i s = .byte ((pack s.payload).getD i 0#8) := by
  rw [pack_getD (by rwa [length_payload]), readElem, if_pos h, packByte]
  simp only [State.payload, Mem.getD_read]

theorem readElem_input {v : Byte} (h : Mem.lookup i s.input = some v) : readElem .input i s = .byte v := by
  rw [readElem, byteOrFree, h, Option.getD_some]

end

/-! ### Writes of IN, BLOB and BITS (R123, R38) -/

theorem Mem.lookup_write_self {α : Type} {cap : Nat} (i : Nat) (v : α) {m : List (Nat × α)} (h : Mem.wf cap m = true) :
    Mem.lookup i (Mem.write i v m) = some v := by
  rw [Mem.lookup_write i i v h, if_pos rfl]

theorem Mem.lookup_write_ne {α : Type} {cap i j : Nat} (v : α) {m : List (Nat × α)} (h : Mem.wf cap m = true)
    (hj : j ≠ i) : Mem.lookup j (Mem.write i v m) = Mem.lookup j m := by
  rw [Mem.lookup_write i j v h, if_neg hj]

/-- One step of `writeBits`: bit `k` of byte `j` is written when it lies below the capacity. -/
def writeBit (cap j : Nat) (v : Byte) (m : List (Nat × Bool)) (k : Nat) : List (Nat × Bool) :=
  if 8 * j + k < cap then Mem.write (8 * j + k) (v.getMsbD k) m else m

theorem writeBits_eq_foldl (cap j : Nat) (v : Byte) (m : List (Nat × Bool)) :
    writeBits cap j v m = (List.range 8).foldl (writeBit cap j v) m := rfl

section
variable {cap : Nat} {m : List (Nat × Bool)} (j : Nat) (v : Byte)

theorem writeBit_wf (k : Nat) (h : Mem.wf cap m = true) : Mem.wf cap (writeBit cap j v m k) = true := by
  unfold writeBit
  split
  · exact Mem.write_wf _ _ ‹_› h
  · exact h

theorem lookup_writeBit (k n : Nat) (h : Mem.wf cap m = true) : Mem.lookup n (writeBit cap j v m k) =
    if n = 8 * j + k ∧ n < cap then some (v.getMsbD (n - 8 * j)) else Mem.lookup n m := by
  by_cases hn : n = 8 * j + k
  · subst hn
    unfold writeBit
    split
    · simp [*, Mem.lookup_write_self _ _ h]
    · simp [*]
  · rw [if_neg (fun hc => hn hc.1), writeBit]
    split
    · exact Mem.lookup_write_ne _ h hn
    · rfl

/-- The bit a write leaves at an index depends on the index alone, so the order of the writes does not matter. -/
theorem lookup_foldl_writeBit (n : Nat) : ∀ (ks : List Nat) {m : List (Nat × Bool)}, Mem.wf cap m = true →
    Mem.lookup n (ks.foldl (writeBit cap j v) m) =
      if (∃ k ∈ ks, n = 8 * j + k) ∧ n < cap then some (v.getMsbD (n - 8 * j)) else Mem.lookup n m
  | [], _, _ => by simp
  | k :: ks, m, h => by
    rw [List.foldl_cons, lookup_foldl_writeBit n ks (writeBit_wf j v k h), lookup_writeBit j v k n h, ← ite_or]
    exact if_congr (by rw [List.exists_mem_cons_iff, or_and_right, or_comm]) rfl rfl

/-- A byte written to BITS sets its bits below the capacity and no other. -/
theorem lookup_writeBits (n : Nat) (h : Mem.wf cap m = true) : Mem.lookup n (writeBits cap j v m) =
    if 8 * j ≤ n ∧ n < 8 * j + 8 ∧ n < cap then some (v.getMsbD (n - 8 * j)) else Mem.lookup n m := by
  have hmem : (∃ k ∈ List.range 8, n = 8 * j + k) ↔ 8 * j ≤ n ∧ n < 8 * j + 8 := by
    constructor
    · rintro ⟨k, hk, rfl⟩
      have := List.mem_range.mp hk
      omega
    · exact fun ⟨hle, hlt⟩ => ⟨n - 8 * j, List.mem_range.mpr (by omega), by omega⟩
  rw [writeBits_eq_foldl, lookup_foldl_writeBit j v n _ h]
  simp only [hmem, and_assoc]

end

/-- Settles O10: the step is the access, an element within range is read from the buffer, and a byte written is found at its
index alone. -/
theorem hostBufferWritesAndReads : Obligations.HostBufferWritesAndReads := by
  refine ⟨?_, fun s i v => ⟨bufRead_freq params s, fun hlen hi => ?_, fun hlen hi => ?_, fun hlen hi => ?_,
    fun hi hv => ?_, fun hwf hi => ⟨_, bufWrite_of_lt_size (k := .bits) rfl hi _, rfl, ?_⟩,
    fun hwf hi => ⟨_, bufWrite_of_lt_size (k := .input) rfl hi _, rfl, ?_, ?_⟩,
    fun hwf hi => ⟨_, bufWrite_of_lt_size (k := .blob) rfl hi _, rfl, ?_, ?_⟩⟩⟩
  · rintro s _ rest sp i rfl
    exact ⟨step_of_bufRead, fun e => step_of_bufWrite⟩
  · exact (bufRead_of_lt_size (k := .out) rfl hi).trans (readElem_out hlen)
  · exact (bufRead_of_lt_size (k := .blob) rfl hi).trans (readElem_blob hlen)
  · exact (bufRead_of_lt_size (k := .bits) rfl hi).trans (readElem_bits hlen)
  · exact (bufRead_of_lt_size (k := .input) rfl hi).trans (readElem_input hv)
  · exact fun n => lookup_writeBits i v n hwf
  · exact Mem.lookup_write_self i v hwf
  · exact fun n => Mem.lookup_write_ne v hwf
  · exact Mem.lookup_write_self i v hwf
  · exact fun n => Mem.lookup_write_ne v hwf

end Sys2Proof.Machine
end

section
/-! SUPPORT. COUNT: exact counters, and the per-item steps of COUNT and EMIT (41_frequency_counter.md R137 to R139,
44_bitstream_encoder.md R186, R188). -/

namespace Sys2Proof.Machine

/-! ### Exact counters (R135, R137, R138) -/

/-- In an input shorter than 2^32 bytes no counter wraps. -/
theorem toNat_count_at {x : List Byte} (hx : x.length < 2 ^ 32) (b : Byte) : ((count x).at b).toNat = x.count b := by
  rw [count_at, BitVec.toNat_ofNat, Nat.mod_eq_of_lt (List.count_le_length.trans_lt hx)]

theorem toList_eq_map_at (f : FreqTable) : f.toList = ((List.range 256).map (BitVec.ofNat 8)).map f.at :=
  List.ext_getElem (by simp) fun i hi _ => by
    have hi : i < 256 := by simpa using hi
    simp [Table.at, Nat.mod_eq_of_lt hi]

theorem present_eq_length_presentSymbols (f : FreqTable) : present f = (presentSymbols f).length := by
  rw [present, toList_eq_map_at, List.countP_map, List.countP_eq_length_filter]
  simp [presentSymbols, bne, beq_eq_decide, Function.comp_def]

/-- The present symbols of a count are the distinct bytes of the input. -/
theorem present_count {x : List Byte} (hx : x.length < 2 ^ 32) : present (count x) = x.dedup.length := by
  rw [present_eq_length_presentSymbols]
  refine ((List.perm_ext_iff_of_nodup (nodup_presentSymbols _) x.nodup_dedup).mpr fun b => ?_).length_eq
  rw [mem_presentSymbols, count_at_ne_zero_iff hx, List.mem_dedup]

theorem count_append_singleton (x : List Byte) (b : Byte) : count (x ++ [b]) = countByte (count x) b :=
  List.foldl_concat ..

/-- A counter below its maximum counts one more byte without loss. -/
theorem total_countByte {f : FreqTable} {b : Byte} (h : (f.at b).toNat + 1 < 2 ^ 32) :
    total (countByte f b) = total f + 1 := by
  have hput := total_put f b (f.at b + 1#32)
  rw [BitVec.toNat_add_of_lt (y := 1#32) h] at hput
  change _ = total f + ((f.at b).toNat + 1) at hput
  rw [countByte]
  omega

/-- Each byte of an input shorter than 2^32 bytes adds exactly 1 to the sum of the counters. -/
theorem total_count {x : List Byte} (hx : x.length < 2 ^ 32) : total (count x) = x.length := by
  induction x using List.reverseRecOn with
  | nil => exact total_zero
  | append_singleton x b ih =>
    rw [List.length_append, List.length_singleton] at hx ⊢
    have hx' : x.length < 2 ^ 32 := by omega
    have hb : x.count b ≤ x.length := List.count_le_length
    rw [count_append_singleton, total_countByte (by rw [toNat_count_at hx']; omega), ih hx']

/-! ### COUNT (R137) -/

/-- A flag raised first after the clear of STATUS is the only one. -/
theorem State.flag_clearStatus (s : State) (f : BitVec 8) : s.clearStatus.flag f = { s with status := f } := by
  rw [State.flag, State.clearStatus, BitVec.zero_or]

theorem length_inputBytes_lt (s : State) : s.inputBytes.length < 2 ^ 32 := by
  rw [length_inputBytes]
  exact s.inLen.isLt

/-- Within the bound COUNT writes FREQ, UNIQUE and EMPTY. -/
theorem countBody_of_le {s : State} (h : s.inSize ≤ s.cfgMaxInput.toNat) : countBody s =
    .next ((s.withFreq (count s.inputBytes) (BitVec.ofNat 9 (present (count s.inputBytes)))).flagIf
      (s.inLen == 0#32) EMPTY) :=
  bounded_of_le _ h

/-- Beyond the bound COUNT raises CAPACITY alone. -/
theorem countBody_of_lt {s : State} (h : s.cfgMaxInput.toNat < s.inSize) : countBody s = .next (s.flag CAPACITY) :=
  bounded_of_lt _ h

/-- Settles O11: past its capacity check COUNT writes the exact counters and the number of distinct bytes; the frame is
`countBody_frame`. -/
theorem countCountsOccurrences : Obligations.CountCountsOccurrences := by
  refine fun s => ⟨fun h => ?_, fun h => ?_⟩
  · have hlen := length_inputBytes_lt s
    have hcount := countBody_of_le (s := s.clearStatus) h
    refine ⟨_, hcount, fun b => ?_, ?_, ?_, countBody_frame (s := s.clearStatus) hcount⟩
    · simpa using toNat_count_at hlen b
    · simpa [-BitVec.toNat_ofNat, toNat_ofNat_present] using present_count hlen
    · simp [EMPTY]
  · rw [exec_count, countBody_of_lt (s := s.clearStatus) h, State.flag_clearStatus, CAPACITY]

/-- Settles O12: every byte of the input adds 1 to the sum of the counters, and each counter is a number of occurrences in it. -/
theorem noCounterOverflows : Obligations.NoCounterOverflows := by
  intro s hlimit h
  have hmax : s.inLen.toNat ≤ 2 ^ 28 - 1 := h.trans (hlimit.trans params_legal.limit)
  have hlen := length_inputBytes_lt s
  have htotal : total (count s.inputBytes) = s.inLen.toNat := (total_count hlen).trans (length_inputBytes s)
  refine ⟨_, countBody_of_le (s := s.clearStatus) h, ?_, ?_, fun b => ?_⟩
  · simpa using htotal
  · simpa [htotal] using hmax
  · have hb : s.inputBytes.count b ≤ s.inputBytes.length := List.count_le_length
    rw [length_inputBytes] at hb
    simpa [toNat_count_at hlen] using hb.trans hmax

/-! ### The per-item steps of COUNT (R139) -/

/-- From the index of the rest `y` of the input on, COUNT's steps count `y`. -/
theorem iterate_countStep (y : List Byte) : ∀ (pre : List Byte) (f : FreqTable),
    (CountFsm.step (pre ++ y))^[y.length] ⟨pre.length, f⟩ = ⟨(pre ++ y).length, y.foldl countByte f⟩ := by
  induction y with
  | nil => simp
  | cons b y ih =>
    intro pre f
    have hstep : CountFsm.step (pre ++ b :: y) ⟨pre.length, f⟩ = ⟨(pre ++ [b]).length, countByte f b⟩ := by
      simp [CountFsm.step]
    have := ih (pre ++ [b]) (countByte f b)
    rw [List.append_assoc, List.singleton_append] at this
    rw [List.length_cons, Function.iterate_succ_apply, hstep, this, List.foldl_cons]

/-! ### The per-item steps of EMIT (44_bitstream_encoder.md R188) -/

/-- From the index of the rest `y` of the input on, EMIT's steps append what EMIT's loop writes of `y`, advance the bit position
by its length, and stop at the loop's unmapped symbol. -/
theorem iterate_emitStep (t : CodeTable) (y : List Byte) : ∀ (pre : List Byte) (p : Nat) (bits : Bits),
    ∃ i, (EmitFsm.step t (pre ++ y))^[y.length] ⟨pre.length, p, bits, none⟩ =
      ⟨i, p + (emitFrom t pre.length y).bits.length, bits ++ (emitFrom t pre.length y).bits,
        (emitFrom t pre.length y).unknown⟩ := by
  induction y with
  | nil => simp [emitFrom]
  | cons b y ih =>
    intro pre p bits
    rw [List.length_cons, Function.iterate_succ_apply]
    cases hb : t.at b with
    | none =>
      have hstep : EmitFsm.step t (pre ++ b :: y) ⟨pre.length, p, bits, none⟩ =
          ⟨pre.length, p, bits, some (b, pre.length)⟩ := by simp [EmitFsm.step, hb]
      rw [hstep, Function.iterate_fixed rfl]
      exact ⟨pre.length, by simp [emitFrom, hb]⟩
    | some c =>
      have hstep : EmitFsm.step t (pre ++ b :: y) ⟨pre.length, p, bits, none⟩ =
          ⟨(pre ++ [b]).length, p + c.length, bits ++ c, none⟩ := by simp [EmitFsm.step, hb]
      obtain ⟨i, hi⟩ := ih (pre ++ [b]) (p + c.length) (bits ++ c)
      rw [List.append_assoc, List.singleton_append] at hi
      exact ⟨i, by rw [hstep, hi]; simp [emitFrom, hb, Nat.add_assoc]⟩

/-! ### Chunks of the input (R186) -/

/-- The bits do not depend on the index EMIT's loop begins at, and the index of the unmapped symbol counts from it. -/
theorem emitFrom_eq_emit (t : CodeTable) (y : List Byte) : ∀ i : Nat, emitFrom t i y =
    ⟨(emit t y).bits, (emit t y).unknown.map fun u => (u.1, i + u.2)⟩ := by
  induction y with
  | nil => exact fun _ => rfl
  | cons b y ih =>
    intro i
    cases hb : t.at b with
    | none => simp [emit, emitFrom, hb]
    | some c => simp [emit, emitFrom, hb, ih (i + 1), ih 1, Function.comp_def, Nat.add_assoc]

/-- Settles O27: both step functions follow the loop of their command item by item, and EMIT's loop over `x ++ y` is the codes
of `x` and the loop over `y` begun at index `len(x)`. -/
theorem counterAndEncoderPerItemStepsAgree : Obligations.CounterAndEncoderPerItemStepsAgree := by
  refine ⟨fun x => iterate_countStep x [] _, fun t x => ?_, fun t x y h => ?_⟩
  · obtain ⟨i, hi⟩ := iterate_emitStep t x [] 0 []
    have hrun : (EmitFsm.step t x)^[x.length] EmitFsm.start =
      ⟨i, (emit t x).bits.length, (emit t x).bits, (emit t x).unknown⟩ := by
      simpa [EmitFsm.start, emit] using hi
    simp only [hrun, and_self]
  · have hx : emit t x = ⟨codesOf t x, none⟩ := by
      simpa [emit, emitFrom] using emitFrom_append (y := []) (i := 0) h
    have hxy : emit t (x ++ y) = _ := emitFrom_append h
    rw [hx, hxy, Nat.zero_add, emitFrom_eq_emit]
    exact ⟨rfl, rfl, rfl, rfl⟩

end Sys2Proof.Machine
end

section
/-! SUPPORT. popmin and the merge loop: the least key, how long the loop runs, and what BUILD ends with
(42_tree_builder.md R153 to R156). -/

namespace Sys2Proof.Machine

/-! ### The least key (R153) -/

/-- The place of a key in the order of R153, as a number. -/
def Key.rank (k : Key) : Nat := k.weight.toNat * 512 + k.index.toNat

theorem Key.before_iff_rank_lt (a b : Key) : a.before b = true ↔ a.rank < b.rank := by
  have ha := a.index.isLt
  have hb := b.index.isLt
  simp only [Key.before, Key.rank, Bool.or_eq_true, Bool.and_eq_true, decide_eq_true_eq, beq_iff_eq,
    ← BitVec.toNat_inj]
  omega

theorem Key.rank_le_iff (a b : Key) : a.rank ≤ b.rank ↔
    a.weight.toNat < b.weight.toNat ∨ (a.weight = b.weight ∧ a.index.toNat ≤ b.index.toNat) := by
  have ha := a.index.isLt
  have hb := b.index.isLt
  simp only [Key.rank, ← BitVec.toNat_inj]
  omega

theorem Key.weight_le_of_rank_le {a b : Key} (h : a.rank ≤ b.rank) : a.weight.toNat ≤ b.weight.toNat :=
  ((Key.rank_le_iff a b).mp h).elim Nat.le_of_lt fun h => (congrArg BitVec.toNat h.1).le

/-- What is popped has the least rank of the live set. -/
theorem popMin_rank_le : ∀ {live : List Key} {m : Key} {rest : List Key}, popMin live = some (m, rest) →
    ∀ k ∈ live, m.rank ≤ k.rank
  | k :: live, m, rest, h => by
    unfold popMin at h
    cases hp : popMin live with
    | none =>
      simp only [hp, Option.some.injEq, Prod.mk.injEq] at h
      obtain ⟨rfl, -⟩ := h
      simp [popMin_eq_none_iff.mp hp]
    | some q =>
      obtain ⟨m', rest'⟩ := q
      have ih := popMin_rank_le hp
      have hlt := Key.before_iff_rank_lt k m'
      simp only [hp] at h
      split at h <;> obtain ⟨rfl, -⟩ := Prod.mk.inj (Option.some.inj h)
      · have hkm := hlt.mp ‹_›
        exact List.forall_mem_cons.mpr ⟨le_rfl, fun c hc => hkm.le.trans (ih c hc)⟩
      · exact List.forall_mem_cons.mpr ⟨Nat.le_of_not_lt (mt hlt.mpr ‹_›), ih⟩

/-- Settles O13: the order of keys is that of their ranks, and a pop compares ranks. -/
theorem popMinTakesTheLeastKey : Obligations.PopMinTakesTheLeastKey := fun _ =>
  ⟨popMin_eq_none_iff, fun m _ h => ⟨popMin_perm h, fun k hk => (Key.rank_le_iff m k).mp (popMin_rank_le h k hk)⟩⟩

/-! ### The merges (R152, R156) -/

/-- The two pops of a merge take `x` and `y` from the live set, leave `rest`, and have the least weights. -/
structure PopsTwo (live : List Key) (x y : Key) (rest : List Key) : Prop where
  perm : live.Perm (x :: y :: rest)
  first_le : ∀ k ∈ y :: rest, x.weight.toNat ≤ k.weight.toNat
  second_le : ∀ k ∈ rest, y.weight.toNat ≤ k.weight.toNat

/-- With two or more live nodes a merge joins the two of least weight. -/
theorem mergeStep_eq_merged {b : Build} (h : 2 ≤ b.live.length) :
    ∃ x y rest, PopsTwo b.live x y rest ∧ mergeStep b = some (b.merged x y rest) := by
  unfold mergeStep
  cases h1 : popMin b.live with
  | none => simp [popMin_eq_none_iff.mp h1] at h
  | some q =>
    obtain ⟨x, live1⟩ := q
    have p1 := popMin_perm h1
    cases h2 : popMin live1 with
    | none =>
      have := p1.length_eq
      simp [popMin_eq_none_iff.mp h2] at this
      omega
    | some q =>
      obtain ⟨y, rest⟩ := q
      have p2 := popMin_perm h2
      refine ⟨x, y, rest, ⟨((p2.cons x).trans p1).symm, fun k hk => ?_, fun k hk => ?_⟩, by simp [h2, Build.merged]⟩
      · exact Key.weight_le_of_rank_le (popMin_rank_le h1 k (p1.mem_iff.mp (.tail _ (p2.mem_iff.mp hk))))
      · exact Key.weight_le_of_rank_le (popMin_rank_le h2 k (p2.mem_iff.mp (.tail _ hk)))

theorem PopsTwo.length_live {live rest : List Key} {x y : Key} (h : PopsTwo live x y rest) :
    live.length = rest.length + 2 := h.perm.length_eq

theorem Build.length_merged_live (b : Build) (x y : Key) (rest : List Key) :
    (b.merged x y rest).live.length = rest.length + 1 := by simp [Build.merged]

theorem mergeLoop_of_length_lt_two {b : Build} (h : b.live.length < 2) : ∀ n, mergeLoop n b = b
  | 0 => rfl
  | n + 1 => by rw [mergeLoop, mergeStep_eq_none h]

theorem mergeLoop_succ {b b' : Build} (h : mergeStep b = some b') (n : Nat) : mergeLoop (n + 1) b = mergeLoop n b' := by
  rw [mergeLoop, h]

/-- What every merge of the two least nodes keeps, the merge loop keeps. -/
theorem mergeLoop_induction {P : Build → Prop}
    (hstep : ∀ b x y rest, P b → PopsTwo b.live x y rest → P (b.merged x y rest)) :
    ∀ (n : Nat) (b : Build), P b → P (mergeLoop n b)
  | 0, _, h => h
  | n + 1, b, h => by
    by_cases h2 : 2 ≤ b.live.length
    · obtain ⟨x, y, rest, hpop, e⟩ := mergeStep_eq_merged h2
      rw [mergeLoop_succ e]
      exact mergeLoop_induction hstep n _ (hstep b x y rest h hpop)
    · rwa [mergeLoop_of_length_lt_two (by omega)]

theorem mergeLoop_add (n : Nat) : ∀ (m : Nat) (b : Build), mergeLoop (m + n) b = mergeLoop n (mergeLoop m b)
  | 0, b => by rw [Nat.zero_add, mergeLoop]
  | m + 1, b => by
    by_cases h2 : 2 ≤ b.live.length
    · obtain ⟨x, y, rest, -, e⟩ := mergeStep_eq_merged h2
      rw [Nat.add_right_comm, mergeLoop_succ e, mergeLoop_succ e, mergeLoop_add n m]
    · simp only [mergeLoop_of_length_lt_two (Nat.lt_of_not_le h2)]

/-- Each merge takes one node from the live set and one index of the arena, while two nodes are live. -/
theorem mergeLoop_counts : ∀ (n : Nat) (b : Build), n + 1 ≤ b.live.length →
    (mergeLoop n b).live.length = b.live.length - n ∧ (mergeLoop n b).next = b.next + n
  | 0, b, _ => ⟨rfl, rfl⟩
  | n + 1, b, h => by
    obtain ⟨x, y, rest, hpop, e⟩ := mergeStep_eq_merged (b := b) (by omega)
    have hlen := hpop.length_live
    have hlen' := b.length_merged_live x y rest
    obtain ⟨ihlive, ihnext⟩ := mergeLoop_counts n (b.merged x y rest) (by omega)
    have hnext : (b.merged x y rest).next = b.next + 1 := rfl
    rw [mergeLoop_succ e]
    omega

/-! ### What BUILD ends with (R152, R154 to R156) -/

theorem length_initLeaves_live (f : FreqTable) : (initLeaves f).live.length = present f := by
  rw [initLeaves_live, List.length_map, present_eq_length_presentSymbols]

/-- BUILD's arena and live set before ROOT is written: the synthetic root above a single leaf, else all merges made. -/
def buildEnd (f : FreqTable) : Build :=
  match (initLeaves f).live with
  | [k] => (initLeaves f).syntheticRoot k
  | _ => mergeLoop (present f - 1) (initLeaves f)

theorem buildEnd_of_present_ne_one {f : FreqTable} (h : present f ≠ 1) :
    buildEnd f = mergeLoop (present f - 1) (initLeaves f) := by
  rw [← length_initLeaves_live] at h
  unfold buildEnd
  split
  · simp [*] at h
  · rfl

theorem buildEnd_of_live_eq_singleton {f : FreqTable} {k : Key} (h : (initLeaves f).live = [k]) :
    buildEnd f = (initLeaves f).syntheticRoot k := by
  rw [buildEnd, h]

/-- The loop's bound of 256 iterations is never what ends it: there are at most 256 leaves. -/
theorem mergeLoop_initLeaves (f : FreqTable) :
    mergeLoop 256 (initLeaves f) = mergeLoop (present f - 1) (initLeaves f) := by
  have hle := present_le f
  have hlen := length_initLeaves_live f
  by_cases h : present f = 0
  · rw [mergeLoop_of_length_lt_two (by omega), mergeLoop_of_length_lt_two (by omega)]
  · obtain ⟨hlive, -⟩ := mergeLoop_counts (present f - 1) (initLeaves f) (by omega)
    rw [show 256 = (present f - 1) + (257 - present f) by omega, mergeLoop_add,
      mergeLoop_of_length_lt_two (by omega)]

theorem buildTree_of_live_eq_nil {f : FreqTable} (h : (initLeaves f).live = []) :
    buildTree f = ((initLeaves f).node, NIL) := by simp [buildTree, h]

theorem buildTree_of_live_eq_singleton {f : FreqTable} {k : Key} (h : (initLeaves f).live = [k]) :
    buildTree f = (putNode (initLeaves f).node 256 (.internal k.weight k.index NIL), 256#9) := by simp [buildTree, h]

theorem buildTree_of_live_eq_cons_cons {f : FreqTable} {k k' : Key} {rest : List Key}
    (h : (initLeaves f).live = k :: k' :: rest) : buildTree f = ((mergeLoop 256 (initLeaves f)).node,
      ((mergeLoop 256 (initLeaves f)).live.head?.map Key.index).getD NIL) := by
  simp only [buildTree, h]
  cases (mergeLoop 256 (initLeaves f)).live <;> rfl

/-- ROOT is the index of the node that is live at the end, NIL when there is none. -/
theorem buildTree_eq_buildEnd (f : FreqTable) :
    buildTree f = ((buildEnd f).node, ((buildEnd f).live.head?.map Key.index).getD NIL) := by
  have hlen := length_initLeaves_live f
  rcases hl : (initLeaves f).live with _ | ⟨k, _ | ⟨k', rest⟩⟩ <;>
    simp only [hl, List.length_cons, List.length_nil] at hlen
  · have hend : buildEnd f = initLeaves f := by
      rw [buildEnd_of_present_ne_one (by omega), ← hlen, mergeLoop]
    rw [buildTree_of_live_eq_nil hl, hend, hl]
    rfl
  · rw [buildTree_of_live_eq_singleton hl, buildEnd_of_live_eq_singleton hl]
    rfl
  · rw [buildTree_of_live_eq_cons_cons hl, buildEnd_of_present_ne_one (by omega), mergeLoop_initLeaves]

end Sys2Proof.Machine
end

section
/-! SUPPORT. BUILD on at most one present symbol, and the walks of its trees (42_tree_builder.md R154, R155). -/

namespace Sys2Proof.Machine

/-- BUILD from a cleared STATUS leaves the flag EMPTY or none. -/
theorem buildBody_clearStatus_spec (s : State) : ∃ t, exec .build s = .next t ∧
    t.node = (buildTree s.freq).1 ∧ t.root = (buildTree s.freq).2 ∧
    t.status = (if ∀ b, s.freq.at b = 0#32 then 0x01#8 else 0x00#8) ∧
    t = { s with status := t.status, node := t.node, root := t.root } := by
  refine ⟨_, buildBody_eq s.clearStatus, by simp, by simp, ?_, buildBody_frame (s := s.clearStatus) rfl⟩
  by_cases h : ∀ b, s.freq.at b = 0#32
  · have hall := (all_zero_iff s.freq).mpr h
    simp [h, hall, EMPTY]
  · have hall := Bool.eq_false_iff.mpr (mt (all_zero_iff s.freq).mp h)
    simp [h, hall]

/-- The walk of the empty tree gives the empty table. -/
theorem walkTable_nil (N : Arena) : walkTable N NIL = emptyTable := by
  have hcodes : codes N NIL = [] := by rw [codes, paths, if_pos rfl]
  rw [walkTable, hcodes, tableOf, List.foldl_nil]

/-- The walk of the one-symbol tree gives its symbol the code "0" (R155). -/
theorem SyntheticTree.codes_eq {N : Arena} {s : Byte} {w : Word} (hN : SyntheticTree N s w) :
    codes N 256#9 = [(s, [false])] := by
  have hroot : 256#9 ≠ NIL := by decide
  simp [codes, paths, hN.nodeAt_root, hN.nodeAt_leaf, hN.leaf_ne_nil, hroot]

theorem live_eq_nil_of_all_zero {f : FreqTable} (h : ∀ b, f.at b = 0#32) : (initLeaves f).live = [] := by
  have hsymbols : presentSymbols f = [] := List.eq_nil_iff_forall_not_mem.mpr fun s hs => mem_presentSymbols.mp hs (h s)
  rw [initLeaves_live, hsymbols, List.map_nil]

theorem presentSymbols_eq_singleton {f : FreqTable} {b : Byte} (hb : f.at b ≠ 0#32) (h : ∀ c, c ≠ b → f.at c = 0#32) :
    presentSymbols f = [b] := by
  refine List.perm_singleton.mp ((List.perm_ext_iff_of_nodup (nodup_presentSymbols f) (List.nodup_singleton b)).mpr
    fun c => ?_)
  rw [mem_presentSymbols, List.mem_singleton]
  exact ⟨not_imp_comm.mp (h c), fun hc => hc ▸ hb⟩

/-- The tree of a table whose one present symbol is `b` (R155). -/
theorem buildTree_of_presentSymbols_singleton {f : FreqTable} {b : Byte} (h : presentSymbols f = [b]) :
    SyntheticTree (buildTree f).1 b (f.at b) ∧ (buildTree f).2 = 256#9 := by
  have hlive : (initLeaves f).live = [leafKey f b] := by rw [initLeaves_live, h, List.map_singleton]
  have hb : f.at b ≠ 0#32 := mem_presentSymbols.mp (by simp [h])
  rw [buildTree_of_live_eq_singleton hlive]
  refine ⟨syntheticTree_putNode (nodeAt_initLeaves_eq_leaf.mpr ⟨rfl, hb, rfl⟩) fun i hi => ?_, rfl⟩
  by_contra hused
  obtain ⟨c, hc, rfl⟩ := exists_leaf_of_used hused
  rw [h, List.mem_singleton] at hc
  exact hi (by rw [hc])

/-- Settles O14: without a leaf no node is written; above a single leaf BUILD writes the synthetic root, which the walk leaves by
its one edge. -/
theorem buildOfAtMostOneSymbol : Obligations.BuildOfAtMostOneSymbol := by
  refine ⟨fun s hzero => ?_, fun s b hb hzero => ?_⟩ <;>
    obtain ⟨t, ht, hnode, hroot, hstatus, hframe⟩ := buildBody_clearStatus_spec s
  · rw [buildTree_of_live_eq_nil (live_eq_nil_of_all_zero hzero)] at hnode hroot
    refine ⟨t, ht, hroot, fun i => ?_, by rw [hstatus, if_pos hzero], hframe, ⟨_, walkBody_eq _, fun b => ?_⟩, fun bits => ?_⟩
    · rw [hnode, nodeAt_initLeaves, if_neg fun h => h.2 (hzero _)]
    · simp [hroot, walkTable_nil, emptyTable]
    · rw [decr, if_pos hroot]
  · have hne : ¬ ∀ c, s.freq.at c = 0#32 := fun h => hb (h b)
    obtain ⟨hN, hroot'⟩ := buildTree_of_presentSymbols_singleton (presentSymbols_eq_singleton hb hzero)
    rw [← hnode] at hN
    rw [← hroot] at hroot'
    have hwalk : walkTable t.node t.root = tableOf [(b, [false])] := by rw [hroot', walkTable, hN.codes_eq]
    refine ⟨t, ht, hroot', hN.nodeAt_leaf, hN.nodeAt_root, fun i hleaf h256 => ?_, by rw [hstatus, if_neg hne], hframe,
      _, walkBody_eq _, ?_, fun c hc => ?_⟩
    · rw [hN, if_neg h256, if_neg hleaf]
    · simp [hwalk, tableOf]
    · simp [hwalk, tableOf, emptyTable, Table.at_put_ne _ _ hc.symm]

end Sys2Proof.Machine
end

section
/-! SUPPORT. The weights and the places of BUILD's internal nodes (42_tree_builder.md R156 to R158). -/

namespace Sys2Proof.Machine

/-! ### Sums over the present symbols -/

/-- A sum to which the elements outside `p` contribute 0 is that over `p`. -/
theorem sum_map_filter_of_eq_zero {α : Type} {p : α → Bool} {g : α → Nat} {l : List α}
    (h : ∀ a ∈ l, p a = false → g a = 0) : ((l.filter p).map g).sum = (l.map g).sum := by
  induction l with
  | nil => rfl
  | cons a l ih =>
    obtain ⟨ha, hl⟩ := List.forall_mem_cons.mp h
    cases hp : p a <;> simp [hp, ih hl, ha]

/-- A sum over all symbols to which the absent ones contribute 0 is one over the present symbols. -/
theorem sum_map_presentSymbols {f : FreqTable} {g : Byte → Nat} (h : ∀ s, f.at s = 0#32 → g s = 0) :
    ((presentSymbols f).map g).sum = (((List.range 256).map (BitVec.ofNat 8)).map g).sum :=
  sum_map_filter_of_eq_zero fun s _ hs => h s (by simpa using hs)

/-- The sum of the weights of the live nodes. -/
def liveWeight (live : List Key) : Nat := (live.map fun k => k.weight.toNat).sum

theorem liveWeight_perm {live live' : List Key} (h : live.Perm live') : liveWeight live = liveWeight live' :=
  (h.map _).sum_eq

@[simp] theorem liveWeight_nil : liveWeight [] = 0 := rfl

@[simp] theorem liveWeight_cons (k : Key) (live : List Key) : liveWeight (k :: live) = k.weight.toNat + liveWeight live :=
  List.sum_cons

@[simp] theorem liveWeight_append (live live' : List Key) :
    liveWeight (live ++ live') = liveWeight live + liveWeight live' := by
  simp [liveWeight]

/-- The leaves weigh as much as all counters together. -/
theorem liveWeight_initLeaves (f : FreqTable) : liveWeight (initLeaves f).live = total f := by
  have h := sum_map_presentSymbols (f := f) (g := fun s => (f.at s).toNat) fun s hs => by rw [hs]; rfl
  rw [liveWeight, initLeaves_live, List.map_map, total, toList_eq_map_at, List.map_map]
  exact h

/-! ### The entries of a merged arena -/

section
variable {f : FreqTable} {b : Build} {x y : Key} {rest : List Key}

theorem Build.Inv.next_lt (I : b.Inv f) (h : b.live.Perm (x :: y :: rest)) : b.next < 511 := by
  have hlen := h.length_eq
  have hroom := I.room
  simp only [List.length_cons] at hlen
  omega

theorem Build.Inv.nodeAt_merged (I : b.Inv f) (h : b.live.Perm (x :: y :: rest)) (i : NodeIdx) :
    nodeAt (b.merged x y rest).node i =
      if i.toNat = b.next then .internal (x.weight + y.weight) x.index y.index else nodeAt b.node i := by
  have hnext := I.next_lt h
  rw [Build.merged, nodeAt_putNode]
  exact if_congr (by omega) rfl rfl

/-- A merge keeps every entry in use. -/
theorem Build.Inv.nodeAt_merged_of_used (I : b.Inv f) (h : b.live.Perm (x :: y :: rest)) {i : NodeIdx}
    (hi : nodeAt b.node i ≠ .free) : nodeAt (b.merged x y rest).node i = nodeAt b.node i := by
  rw [I.nodeAt_merged h, if_neg (I.forest.used_lt hi).ne]

/-- An internal node of the merged arena is the new one or an old one. -/
theorem Build.Inv.internal_merged (I : b.Inv f) (h : b.live.Perm (x :: y :: rest)) {i l r : NodeIdx} {w : Word}
    (hi : nodeAt (b.merged x y rest).node i = .internal w l r) :
    (i.toNat = b.next ∧ w = x.weight + y.weight ∧ l = x.index ∧ r = y.index) ∨
      (i.toNat < b.next ∧ nodeAt b.node i = .internal w l r) := by
  rw [I.nodeAt_merged h] at hi
  split at hi
  · cases hi
    exact .inl ⟨‹_›, rfl, rfl, rfl⟩
  · exact .inr ⟨(I.forest.internal i w l r hi).2.1, hi⟩

/-- A live node is in use and has the weight of its entry. -/
theorem Build.Inv.live_node (I : b.Inv f) {k : Key} (hk : k ∈ b.live) :
    nodeAt b.node k.index ≠ .free ∧ k.weight = (nodeAt b.node k.index).weight :=
  ⟨I.forest.root_used _ (List.mem_map_of_mem hk), I.weight k hk⟩

end

/-! ### Exact weights (R156, R157) -/

/-- What holds of BUILD's state in the merge loop, besides `Build.Inv`, when the counters sum below 2^32: no weight has wrapped,
and the internal nodes fill the indices from 256 on. -/
structure Build.Exact (f : FreqTable) (b : Build) : Prop extends b.Inv f where
  live_sum : liveWeight b.live = total f
  sums : ∀ i w l r, nodeAt b.node i = .internal w l r →
    w.toNat = (nodeAt b.node l).weight.toNat + (nodeAt b.node r).weight.toNat
  filled : ∀ i : NodeIdx, 256 ≤ i.toNat → i.toNat < b.next → ∃ w l r, nodeAt b.node i = .internal w l r

theorem initLeaves_exact (f : FreqTable) : (initLeaves f).Exact f where
  toInv := initLeaves_inv f
  live_sum := liveWeight_initLeaves f
  sums i w l r h := absurd h (nodeAt_initLeaves_ne_internal i w l r)
  filled i hge hlt := by
    rw [initLeaves_next] at hlt
    omega

section
variable {f : FreqTable} {b : Build} {x y : Key} {rest : List Key} (hf : total f < 2 ^ 32)
include hf

theorem Build.Exact.toNat_add (E : b.Exact f) (h : b.live.Perm (x :: y :: rest)) :
    (x.weight + y.weight).toNat = x.weight.toNat + y.weight.toNat := by
  have hsum := E.live_sum
  simp only [liveWeight_perm h, liveWeight_cons] at hsum
  exact BitVec.toNat_add_of_lt (by omega)

theorem Build.Exact.merged (E : b.Exact f) (h : b.live.Perm (x :: y :: rest)) : (b.merged x y rest).Exact f := by
  have I := E.toInv
  have hadd := E.toNat_add hf h
  refine ⟨I.merged h, ?_, fun i w l r hi => ?_, fun i hge hlt => ?_⟩
  · have hsum := E.live_sum
    simp only [liveWeight_perm h, liveWeight_cons] at hsum
    simp only [Build.merged, liveWeight_append, liveWeight_cons, liveWeight_nil, hadd]
    omega
  · rcases I.internal_merged h hi with ⟨-, rfl, rfl, rfl⟩ | ⟨-, hi⟩
    · obtain ⟨hx, hxw⟩ := I.live_node (k := x) (h.mem_iff.mpr (by simp))
      obtain ⟨hy, hyw⟩ := I.live_node (k := y) (h.mem_iff.mpr (by simp))
      rw [I.nodeAt_merged_of_used h hx, I.nodeAt_merged_of_used h hy, ← hxw, ← hyw, hadd]
    · rw [I.nodeAt_merged_of_used h (I.forest.child i w l r hi l (.inl rfl)).2,
        I.nodeAt_merged_of_used h (I.forest.child i w l r hi r (.inr rfl)).2]
      exact E.sums i w l r hi
  · rw [I.nodeAt_merged h]
    split
    · exact ⟨_, _, _, rfl⟩
    · exact E.filled i hge (by simp only [Build.merged] at hlt; omega)

theorem mergeLoop_exact (n : Nat) : (mergeLoop n (initLeaves f)).Exact f :=
  mergeLoop_induction (fun _ _ _ _ E h => E.merged hf h.perm) n _ (initLeaves_exact f)

end

/-! ### The last node (R156) -/

/-- A node that is live alone is the one made last. -/
theorem Build.Exact.index_of_live_singleton {f : FreqTable} {b : Build} (E : b.Exact f) {k : Key} (hk : b.live = [k])
    (hnext : 256 < b.next) : k.index.toNat = b.next - 1 := by
  have I := E.toInv
  have hroom := I.room
  have hlast : (BitVec.ofNat 9 (b.next - 1)).toNat = b.next - 1 := by
    rw [BitVec.toNat_ofNat, Nat.mod_eq_of_lt]
    rw [hk] at hroom
    simp only [List.length_singleton] at hroom
    omega
  obtain ⟨w, l, r, hi⟩ := E.filled (BitVec.ofNat 9 (b.next - 1)) (by omega) (by omega)
  obtain ⟨i, hmem, p, hp⟩ := I.forest.cover _ (by rw [hi]; exact Node.noConfusion)
  obtain rfl : i = k.index := by simpa [hk] using hmem
  obtain ⟨hused, -⟩ := I.live_node (k := k) (by simp [hk])
  have hle := (I.forest.reaches_le_and_ne_free hused hp).1
  have hlt := I.forest.used_lt hused
  omega

/-- BUILD's arena and root for two or more present symbols: all merges made, one node left, which was made last. -/
theorem buildTree_of_two_le_present {f : FreqTable} (h2 : 2 ≤ present f) (hf : total f < 2 ^ 32) :
    ∃ k, (mergeLoop (present f - 1) (initLeaves f)).live = [k] ∧
      buildTree f = ((mergeLoop (present f - 1) (initLeaves f)).node, k.index) ∧
      (mergeLoop (present f - 1) (initLeaves f)).next = 256 + present f - 1 ∧ k.index.toNat = 256 + present f - 2 := by
  have hlen := length_initLeaves_live f
  obtain ⟨hlive, hnext⟩ := mergeLoop_counts (present f - 1) (initLeaves f) (by omega)
  rw [initLeaves_next] at hnext
  obtain ⟨k, hone⟩ := List.length_eq_one_iff.mp (show (mergeLoop (present f - 1) (initLeaves f)).live.length = 1 by omega)
  have hindex := (mergeLoop_exact hf (present f - 1)).index_of_live_singleton hone (by omega)
  refine ⟨k, hone, ?_, by omega, by omega⟩
  rw [buildTree_eq_buildEnd, buildEnd_of_present_ne_one (by omega), hone]
  rfl

theorem not_all_zero_of_present_pos {f : FreqTable} (h : 0 < present f) : ¬ ∀ b, f.at b = 0#32 := by
  rw [present_eq_length_presentSymbols] at h
  obtain ⟨s, hs⟩ := List.exists_mem_of_length_pos h
  exact fun hz => mem_presentSymbols.mp hs (hz s)

/-- Settles O15: each merge takes one live node and one index, keeps the weights exact and fills the arena from 256 on; after
k - 1 merges one node is left. -/
theorem buildOfManySymbols : Obligations.BuildOfManySymbols := by
  intro s h2 hf
  refine ⟨fun n hn => ?_, ?_⟩
  · have hlen := length_initLeaves_live s.freq
    have hcounts := mergeLoop_counts n (initLeaves s.freq) (by omega)
    rwa [hlen, initLeaves_next] at hcounts
  obtain ⟨t, ht, hnode, hroot, hstatus, hframe⟩ := buildBody_clearStatus_spec s
  obtain ⟨k, hlive, hbuild, hnext, hindex⟩ := buildTree_of_two_le_present h2 hf
  have E := mergeLoop_exact hf (present s.freq - 1)
  have I := E.toInv
  rw [hbuild] at hnode hroot
  rw [if_neg (not_all_zero_of_present_pos (by omega))] at hstatus
  refine ⟨t, ht, by rw [hroot, hindex], hstatus, fun i hge => ⟨?_, fun hle => ?_⟩, fun i w l r hi => ?_, ?_, hframe⟩
  · rintro ⟨w, l, r, hi⟩
    rw [hnode] at hi
    have := (I.forest.internal i w l r hi).2.1
    omega
  · rw [hnode]
    exact E.filled i hge (by omega)
  · rw [hnode] at hi ⊢
    obtain ⟨hllt, hl⟩ := I.forest.child i w l r hi l (.inl rfl)
    obtain ⟨hrlt, hr⟩ := I.forest.child i w l r hi r (.inr rfl)
    exact ⟨hl, hr, hllt, hrlt, E.sums i w l r hi⟩
  · have hsum := E.live_sum
    rw [hlive, liveWeight_cons, liveWeight_nil, Nat.add_zero] at hsum
    rw [hnode, hroot, ← (I.live_node (k := k) (by simp [hlive])).2, hsum]

end Sys2Proof.Machine
end

section
/-! SUPPORT. The weights of BUILD's internal nodes rise with the index (42_tree_builder.md R158 (b)). -/

namespace Sys2Proof.Machine

/-- The internal weights rise with the index, and none passes the weight of the next merge, whichever two nodes it takes. -/
structure Build.Rising (b : Build) : Prop where
  rising : ∀ i j wi li ri wj lj rj, i.toNat ≤ j.toNat → nodeAt b.node i = .internal wi li ri →
    nodeAt b.node j = .internal wj lj rj → wi.toNat ≤ wj.toNat
  le_pair : ∀ i w l r, nodeAt b.node i = .internal w l r → ∀ x y rest, b.live.Perm (x :: y :: rest) →
    w.toNat ≤ x.weight.toNat + y.weight.toNat

/-- Two of the nodes that are live after a merge weigh at least as much as the two it took. -/
theorem PopsTwo.sum_le_of_merged {b : Build} {x y a c : Key} {rest rest' : List Key} (h : PopsTwo b.live x y rest)
    (hadd : (x.weight + y.weight).toNat = x.weight.toNat + y.weight.toNat)
    (h' : (b.merged x y rest).live.Perm (a :: c :: rest')) :
    x.weight.toNat + y.weight.toNat ≤ a.weight.toNat + c.weight.toNat := by
  have hmem : ∀ k ∈ a :: c :: rest', k ∈ rest ∨ k = ⟨x.weight + y.weight, BitVec.ofNat 9 b.next⟩ := fun k hk => by
    simpa [Build.merged] using h'.mem_iff.mpr hk
  have hx : ∀ k ∈ rest, x.weight.toNat ≤ k.weight.toNat := fun k hk => h.first_le k (.tail _ hk)
  rcases hmem a (by simp) with ha | rfl <;> rcases hmem c (by simp) with hc | rfl
  · exact Nat.add_le_add (hx a ha) (h.second_le c hc)
  all_goals
    simp only [hadd]
    omega

theorem Build.Rising.merged {f : FreqTable} {b : Build} {x y : Key} {rest : List Key} (R : b.Rising) (E : b.Exact f)
    (hf : total f < 2 ^ 32) (h : PopsTwo b.live x y rest) : (b.merged x y rest).Rising := by
  have I := E.toInv
  have hadd := E.toNat_add hf h.perm
  refine ⟨fun i j wi li ri wj lj rj hij hi hj => ?_, fun i w l r hi a c rest' h' => ?_⟩
  · rcases I.internal_merged h.perm hi with ⟨hi', rfl, -⟩ | ⟨hi', hi⟩ <;>
      rcases I.internal_merged h.perm hj with ⟨hj', rfl, -⟩ | ⟨hj', hj⟩
    · exact le_rfl
    · omega
    · rw [hadd]
      exact R.le_pair i wi li ri hi x y rest h.perm
    · exact R.rising i j wi li ri wj lj rj hij hi hj
  · have hle := h.sum_le_of_merged hadd h'
    rcases I.internal_merged h.perm hi with ⟨-, rfl, -⟩ | ⟨-, hi⟩
    · rwa [hadd]
    · exact (R.le_pair i w l r hi x y rest h.perm).trans hle

theorem mergeLoop_rising {f : FreqTable} (hf : total f < 2 ^ 32) (n : Nat) : (mergeLoop n (initLeaves f)).Rising := by
  have hinit : (initLeaves f).Exact f ∧ (initLeaves f).Rising :=
    ⟨initLeaves_exact f, fun i _ wi li ri _ _ _ _ hi => absurd hi (nodeAt_initLeaves_ne_internal i wi li ri),
      fun i w l r hi => absurd hi (nodeAt_initLeaves_ne_internal i w l r)⟩
  exact (mergeLoop_induction (P := fun b => b.Exact f ∧ b.Rising)
    (fun _ _ _ _ ⟨E, R⟩ h => ⟨E.merged hf h.perm, R.merged E hf h⟩) n _ hinit).2

/-- Settles O17: the merges take ever heavier pairs, and at most one symbol gives at most one internal node. -/
theorem internalWeightsAreNondecreasing : Obligations.InternalWeightsAreNondecreasing := by
  intro s t hf ht i j wi li ri wj lj rj hij hi hj
  obtain ⟨t', ht', hnode, -⟩ := buildBody_clearStatus_spec s
  obtain rfl : t = t' := by simpa using ht.symm.trans ht'
  rw [hnode] at hi hj
  by_cases h1 : present s.freq = 1
  · obtain ⟨b, hb⟩ := List.length_eq_one_iff.mp ((present_eq_length_presentSymbols s.freq).symm.trans h1)
    have hN := (buildTree_of_presentSymbols_singleton hb).1
    obtain ⟨-, rfl, -⟩ := hN.eq_of_internal hi
    obtain ⟨-, rfl, -⟩ := hN.eq_of_internal hj
    exact le_rfl
  · rw [buildTree_eq_buildEnd, buildEnd_of_present_ne_one h1] at hi hj
    exact (mergeLoop_rising hf _).rising i j wi li ri wj lj rj hij hi hj

end Sys2Proof.Machine
end

section
/-! SUPPORT. BUILD item by item: the phases INIT, MERGE and DONE (42_tree_builder.md R159). -/

namespace Sys2Proof.Machine

/-! ### INIT -/

/-- BUILD's state after the INIT steps of the symbols below `n`. -/
def initUpTo (f : FreqTable) (n : Nat) : Build :=
  ((List.range n).map (BitVec.ofNat 8)).foldl (initLeaf f) { node := Vector.replicate 511 .free, live := [], next := 256 }

theorem initUpTo_succ (f : FreqTable) (n : Nat) :
    initUpTo f (n + 1) = initLeaf f (initUpTo f n) (BitVec.ofNat 8 n) := by
  simp [initUpTo, List.range_succ]

theorem initUpTo_256 (f : FreqTable) : initUpTo f 256 = initLeaves f := by
  rw [initUpTo, initLeaves]

theorem BuildFsm.step_init (f : FreqTable) (n : Nat) (r : NodeIdx) : BuildFsm.step f ⟨.init n, initUpTo f n, r⟩ =
    ⟨if n < 255 then .init (n + 1) else (initUpTo f (n + 1)).afterInit, initUpTo f (n + 1), r⟩ := by
  rw [initUpTo_succ]
  rfl

theorem BuildFsm.iterate_init (f : FreqTable) : ∀ {n : Nat}, n < 256 →
    (BuildFsm.step f)^[n] BuildFsm.start = ⟨.init n, initUpTo f n, NIL⟩
  | 0, _ => rfl
  | n + 1, h => by
    rw [Function.iterate_succ_apply', BuildFsm.iterate_init f (Nat.lt_of_succ_lt h), BuildFsm.step_init, if_pos (by omega)]

/-- INIT takes one step per symbol and ends with the leaves (R159). -/
theorem BuildFsm.iterate_256 (f : FreqTable) :
    (BuildFsm.step f)^[256] BuildFsm.start = ⟨(initLeaves f).afterInit, initLeaves f, NIL⟩ := by
  rw [Function.iterate_succ_apply' (n := 255), BuildFsm.iterate_init f (by omega), BuildFsm.step_init,
    if_neg (by omega), initUpTo_256]

/-! ### MERGE -/

theorem mergeSteps_of_ne_one {k : Nat} (h : k ≠ 1) : mergeSteps k = k - 1 := if_neg h

/-- A MERGE step with two or more live nodes is one iteration of the merge loop. -/
theorem BuildFsm.step_merge (f : FreqTable) {b : Build} (r : NodeIdx) (h : 2 ≤ b.live.length) :
    BuildFsm.step f ⟨.merge, b, r⟩ = ⟨(mergeLoop 1 b).afterMerge, mergeLoop 1 b, r⟩ := by
  obtain ⟨x, y, rest, -, e⟩ := mergeStep_eq_merged h
  obtain ⟨k, k', l, hl⟩ : ∃ k k' l, b.live = k :: k' :: l := by
    rcases hl : b.live with _ | ⟨k, _ | ⟨k', l⟩⟩
    · simp [hl] at h
    · simp [hl] at h
    · exact ⟨k, k', l, rfl⟩
  rw [mergeLoop_succ e, mergeLoop]
  simp only [BuildFsm.step, hl, e]

theorem BuildFsm.step_merge_singleton (f : FreqTable) {b : Build} {k : Key} (r : NodeIdx) (h : b.live = [k]) :
    BuildFsm.step f ⟨.merge, b, r⟩ = ⟨.done, b.syntheticRoot k, r⟩ := by
  simp only [BuildFsm.step, h]

/-- MERGE follows INIT when a node is live. -/
theorem Build.afterInit_eq (b : Build) : b.afterInit = if 0 < b.live.length then .merge else .done := by
  rw [Build.afterInit]
  cases b.live <;> rfl

/-- MERGE goes on while two nodes are live. -/
theorem Build.afterMerge_eq (b : Build) : b.afterMerge = if 1 < b.live.length then .merge else .done := by
  rw [Build.afterMerge]
  split
  · rw [if_neg (by omega)]
  · rw [if_pos (by omega)]

/-- For other than one present symbol the MERGE steps are the iterations of the merge loop. -/
theorem BuildFsm.iterate_merge_of_ne_one {f : FreqTable} (h1 : present f ≠ 1) : ∀ {n : Nat}, n ≤ present f - 1 →
    (BuildFsm.step f)^[n] ⟨(initLeaves f).afterInit, initLeaves f, NIL⟩ =
      ⟨if n < present f - 1 then .merge else .done, mergeLoop n (initLeaves f), NIL⟩
  | 0, _ => by
    have hlen := length_initLeaves_live f
    have hiff : 0 < (initLeaves f).live.length ↔ 0 < present f - 1 := by omega
    rw [Function.iterate_zero_apply, mergeLoop, Build.afterInit_eq, if_congr hiff rfl rfl]
  | n + 1, hn => by
    have hlen := length_initLeaves_live f
    obtain ⟨hlive, -⟩ := mergeLoop_counts n (initLeaves f) (by omega)
    obtain ⟨hlive', -⟩ := mergeLoop_counts (n + 1) (initLeaves f) (by omega)
    have hiff : 1 < (mergeLoop (n + 1) (initLeaves f)).live.length ↔ n + 1 < present f - 1 := by omega
    rw [Function.iterate_succ_apply', BuildFsm.iterate_merge_of_ne_one h1 (Nat.le_of_succ_le hn), if_pos (by omega),
      BuildFsm.step_merge f NIL (by omega), ← mergeLoop_add, Build.afterMerge_eq, if_congr hiff rfl rfl]

/-- The MERGE steps stay in MERGE until the last, write no ROOT, and end with what BUILD ends with (R159). -/
theorem BuildFsm.iterate_merge (f : FreqTable) {n : Nat} (hn : n ≤ mergeSteps (present f)) :
    ∃ b, (BuildFsm.step f)^[n + 256] BuildFsm.start = ⟨if n < mergeSteps (present f) then .merge else .done, b, NIL⟩ ∧
      (n = mergeSteps (present f) → b = buildEnd f) := by
  rw [Function.iterate_add_apply, BuildFsm.iterate_256]
  by_cases h1 : present f = 1
  · obtain ⟨k, hk⟩ := List.length_eq_one_iff.mp ((length_initLeaves_live f).trans h1)
    have hinit : (initLeaves f).afterInit = .merge := by rw [Build.afterInit_eq, hk]; rfl
    have hone : mergeSteps (present f) = 1 := by rw [h1, mergeSteps, if_pos rfl]
    rw [hone] at hn ⊢
    rw [hinit]
    obtain rfl | rfl := Nat.le_one_iff_eq_zero_or_eq_one.mp hn
    · exact ⟨_, rfl, fun h => absurd h (by decide)⟩
    · exact ⟨_, BuildFsm.step_merge_singleton f NIL hk, fun _ => (buildEnd_of_live_eq_singleton hk).symm⟩
  · rw [mergeSteps_of_ne_one h1] at hn ⊢
    exact ⟨_, BuildFsm.iterate_merge_of_ne_one h1 hn, fun h => by rw [h, buildEnd_of_present_ne_one h1]⟩

/-! ### DONE -/

/-- The DONE step writes ROOT and empties the live set, and nothing follows it. -/
theorem BuildFsm.iterate_done (f : FreqTable) (n : Nat) :
    (BuildFsm.step f)^[n + 1 + (mergeSteps (present f) + 256)] BuildFsm.start =
      ⟨.ended, { buildEnd f with live := [] }, (buildTree f).2⟩ := by
  obtain ⟨b, e, hb⟩ := BuildFsm.iterate_merge f le_rfl
  obtain rfl := hb rfl
  rw [Function.iterate_add_apply, e, if_neg (lt_irrefl _), Function.iterate_succ_apply, buildTree_eq_buildEnd]
  exact Function.iterate_fixed rfl n

/-- The phase of every step after INIT (R159). -/
theorem BuildFsm.phase_iterate (f : FreqTable) (n : Nat) : ((BuildFsm.step f)^[n + 256] BuildFsm.start).phase =
    if n < mergeSteps (present f) then .merge else if n = mergeSteps (present f) then .done else .ended := by
  by_cases hn : n ≤ mergeSteps (present f)
  · obtain ⟨b, e, -⟩ := BuildFsm.iterate_merge f hn
    rw [e]
    rcases hn.lt_or_eq with h | h
    · rw [if_pos h, if_pos h]
    · rw [if_neg h.not_lt, if_neg h.not_lt, if_pos h]
  · obtain ⟨j, rfl⟩ := Nat.exists_eq_add_of_lt (Nat.lt_of_not_le hn)
    have hsteps : mergeSteps (present f) + j + 1 + 256 = j + 1 + (mergeSteps (present f) + 256) := by omega
    rw [if_neg (by omega), if_neg (by omega), hsteps, BuildFsm.iterate_done]

/-- Settles O19: INIT, MERGE and DONE follow `initLeaves`, the merge loop and the choice of ROOT step by step. -/
theorem buildPerItemStepsAgree : Obligations.BuildPerItemStepsAgree := by
  intro f merges
  refine ⟨fun n => ?_, by rw [BuildFsm.iterate_256], fun n hn => ?_, ?_⟩
  · rcases lt_or_ge n 256 with h | h
    · rw [if_pos h, BuildFsm.iterate_init f h]
    · obtain ⟨m, rfl⟩ := Nat.exists_eq_add_of_le' h
      rw [if_neg (by omega), BuildFsm.phase_iterate]
      exact if_congr (by omega) rfl (if_congr (by omega) rfl rfl)
  · rcases lt_or_ge n 256 with h | h
    · rw [BuildFsm.iterate_init f h]
    · obtain ⟨m, rfl⟩ := Nat.exists_eq_add_of_le' h
      obtain ⟨b, e, -⟩ := BuildFsm.iterate_merge f (n := m) (by omega)
      rw [e]
  · rw [show 256 + merges + 1 = 0 + 1 + (mergeSteps (present f) + 256) by omega, BuildFsm.iterate_done,
      buildTree_eq_buildEnd]
    exact ⟨rfl, rfl, rfl⟩

end Sys2Proof.Machine
end

section
/-! SUPPORT. The classical argument for Huffman's merges, on lists of weights and code lengths: Kraft's inequality, and the
exchange of the two lightest weights with two of the longest codes (42_tree_builder.md R158 (a)). -/

namespace Sys2Proof.Machine

/-! ### Kraft's inequality -/

/-- Code lengths of at most `N` bits whose codes fill no more than the words of `N` bits. -/
def Kraft (N : Nat) (lens : List Nat) : Prop :=
  (∀ l ∈ lens, l ≤ N) ∧ (lens.map fun l => 2 ^ (N - l)).sum ≤ 2 ^ N

theorem Kraft.perm {N : Nat} {lens lens' : List Nat} (h : lens.Perm lens') (hk : Kraft N lens) : Kraft N lens' :=
  ⟨fun l hl => hk.1 l (h.mem_iff.mpr hl), (h.map fun l => 2 ^ (N - l)).sum_eq ▸ hk.2⟩

/-- Where no other code is as long, the longest one can be a bit shorter. -/
theorem Kraft.shorten_longest {N L : Nat} {lens : List Nat} (hk : Kraft N (L :: lens)) (hlt : ∀ l ∈ lens, l < L)
    (hL : 0 < L) : Kraft N ((L - 1) :: lens) := by
  obtain ⟨hle, hsum⟩ := hk
  obtain ⟨hLN, hle⟩ := List.forall_mem_cons.mp hle
  refine ⟨List.forall_mem_cons.mpr ⟨by omega, hle⟩, ?_⟩
  have hdouble : 2 ^ (N - (L - 1)) = 2 * 2 ^ (N - L) := by
    rw [show N - (L - 1) = N - L + 1 by omega, pow_succ']
  have hdvd : ∀ l, l < L → 2 * 2 ^ (N - L) ∣ 2 ^ (N - l) := fun l hl => by
    rw [← pow_succ']
    exact pow_dvd_pow 2 (by omega)
  obtain ⟨m, hm⟩ : 2 * 2 ^ (N - L) ∣ (lens.map fun l => 2 ^ (N - l)).sum :=
    List.dvd_sum fun v hv => by
      obtain ⟨l, hl, rfl⟩ := List.mem_map.mp hv
      exact hdvd l (hlt l hl)
  obtain ⟨n, hn⟩ := hdvd 0 hL
  have hpos : 0 < 2 ^ (N - L) := by positivity
  rw [List.map_cons, List.sum_cons] at hsum ⊢
  rw [Nat.sub_zero] at hn
  rw [hm, hn] at hsum ⊢
  have hmn : m < n := by
    by_contra hmn
    have := Nat.mul_le_mul_left (2 * 2 ^ (N - L)) (Nat.le_of_not_lt hmn)
    omega
  calc 2 ^ (N - (L - 1)) + 2 * 2 ^ (N - L) * m = 2 * 2 ^ (N - L) * (m + 1) := by rw [hdouble]; ring
    _ ≤ 2 * 2 ^ (N - L) * n := Nat.mul_le_mul_left _ hmn

/-- Two codes of one length leave room for one that is a bit shorter in their place. -/
theorem Kraft.join {N L : Nat} {lens : List Nat} (hk : Kraft N (L :: L :: lens)) : 0 < L ∧ Kraft N ((L - 1) :: lens) := by
  obtain ⟨hle, hsum⟩ := hk
  simp only [List.forall_mem_cons] at hle
  obtain ⟨hLN, -, hle⟩ := hle
  simp only [List.map_cons, List.sum_cons] at hsum
  have hpos : 0 < 2 ^ N := by positivity
  have hL : 0 < L := by
    by_contra h0
    rw [Nat.eq_zero_of_not_pos h0, Nat.sub_zero] at hsum
    omega
  refine ⟨hL, List.forall_mem_cons.mpr ⟨by omega, hle⟩, ?_⟩
  rw [List.map_cons, List.sum_cons, show N - (L - 1) = N - L + 1 by omega, pow_succ']
  omega

/-- A set of non-empty codes of which none begins another is uniquely decodable. -/
theorem uniquelyDecodable_of_prefixFree {S : Set Bits} (hne : [] ∉ S) (h : ∀ c ∈ S, ∀ d ∈ S, c <+: d → c = d) :
    InformationTheory.UniquelyDecodable S
  | [], [], _, _, _ => rfl
  | [], d :: L₂, _, h₂, e => by
    have hd : d = [] := (List.append_eq_nil_iff.mp e.symm).1
    exact absurd (hd ▸ h₂ d (by simp)) hne
  | c :: L₁, [], h₁, _, e => by
    have hc : c = [] := (List.append_eq_nil_iff.mp e).1
    exact absurd (hc ▸ h₁ c (by simp)) hne
  | c :: L₁, d :: L₂, h₁, h₂, e => by
    obtain ⟨hc, hL₁⟩ := List.forall_mem_cons.mp h₁
    obtain ⟨hd, hL₂⟩ := List.forall_mem_cons.mp h₂
    rw [List.flatten_cons, List.flatten_cons] at e
    have hcd : c = d := (List.prefix_or_prefix_of_prefix (List.prefix_append c _) (e ▸ List.prefix_append d _)).elim
      (h c hc d hd) fun hp => (h d hd c hc hp).symm
    subst hcd
    rw [uniquelyDecodable_of_prefixFree hne h L₁ L₂ hL₁ hL₂ (List.append_cancel_left e)]

/-- Kraft's sum over the reals, scaled to words of `N` bits. -/
theorem cast_sum_two_pow_sub {N : Nat} {lens : List Nat} (hN : ∀ l ∈ lens, l ≤ N) :
    (((lens.map fun l => 2 ^ (N - l)).sum : Nat) : ℝ) = 2 ^ N * (lens.map fun l => (1 / ((2 : Nat) : ℝ)) ^ l).sum := by
  rw [← List.sum_map_mul_left, Nat.cast_list_sum, List.map_map]
  refine congrArg List.sum (List.map_congr_left fun l hl => ?_)
  simp [pow_sub₀ (2 : ℝ) two_ne_zero (hN l hl)]

/-- Non-empty codes of distinct symbols, none beginning another, satisfy Kraft's inequality. -/
theorem kraft_of_prefixFree {N : Nat} {l : List Byte} (hl : l.Nodup) {c : Byte → Bits} (hne : ∀ a ∈ l, c a ≠ [])
    (hfree : ∀ a ∈ l, ∀ b ∈ l, a ≠ b → ¬ c a <+: c b) (hN : ∀ a ∈ l, (c a).length ≤ N) :
    Kraft N (l.map fun a => (c a).length) := by
  have hlens : ∀ n ∈ l.map fun a => (c a).length, n ≤ N := List.forall_mem_map.mpr hN
  have hinj : Set.InjOn c l.toFinset := fun a ha b hb hab => by
    by_contra hcon
    exact hfree a (by simpa using ha) b (by simpa using hb) hcon (hab ▸ List.prefix_rfl)
  have hUD : InformationTheory.UniquelyDecodable ((l.toFinset.image c : Finset Bits) : Set Bits) := by
    refine uniquelyDecodable_of_prefixFree (by simpa using hne) fun x hx y hy hxy => ?_
    obtain ⟨a, ha, rfl⟩ : ∃ a ∈ l, c a = x := by simpa using hx
    obtain ⟨b, hb, rfl⟩ : ∃ a ∈ l, c a = y := by simpa using hy
    by_contra hcon
    exact hfree a ha b hb (fun hab => hcon (by rw [hab])) hxy
  have hkraft := InformationTheory.kraft_mcmillan_inequality hUD
  rw [Finset.sum_image hinj, List.sum_toFinset _ hl, Fintype.card_bool] at hkraft
  have hscaled := mul_le_mul_of_nonneg_left hkraft (by positivity : (0 : ℝ) ≤ 2 ^ N)
  have hcast := cast_sum_two_pow_sub hlens
  rw [List.map_map (f := fun a => (c a).length) (g := fun n => (1 / ((2 : Nat) : ℝ)) ^ n)] at hcast
  refine ⟨hlens, ?_⟩
  exact_mod_cast hcast.trans_le (hscaled.trans_eq (mul_one _))

/-! ### Weights with code lengths -/

/-- The weighted length of a list of (weight, length) pairs. -/
def pairCost (ps : List (Nat × Nat)) : Nat := (ps.map fun q => q.1 * q.2).sum

@[simp] theorem pairCost_cons (w l : Nat) (ps : List (Nat × Nat)) : pairCost ((w, l) :: ps) = w * l + pairCost ps :=
  List.sum_cons

theorem pairCost_perm {ps ps' : List (Nat × Nat)} (h : ps.Perm ps') : pairCost ps = pairCost ps' := (h.map _).sum_eq

/-- One of the codes has the longest length. -/
theorem exists_longest {ps : List (Nat × Nat)} (h : ps ≠ []) :
    ∃ a L qs, ps.Perm ((a, L) :: qs) ∧ ∀ l ∈ qs.map Prod.snd, l ≤ L := by
  obtain ⟨⟨a, L⟩, hmem, hmax⟩ := ps.toFinset.exists_max_image Prod.snd ((List.toFinset_nonempty_iff ps).mpr h)
  have hperm := List.perm_cons_erase (List.mem_toFinset.mp hmem)
  refine ⟨a, L, _, hperm, List.forall_mem_map.mpr fun q hq => ?_⟩
  exact hmax q (List.mem_toFinset.mpr (hperm.mem_iff.mpr (.tail _ hq)))

/-- Two or more codes can be replaced by codes that are no longer, the longest length being that of two of them. -/
theorem exists_two_longest {N : Nat} {ps : List (Nat × Nat)} (hk : Kraft N (ps.map Prod.snd)) (h2 : 2 ≤ ps.length) :
    ∃ (ps' : List (Nat × Nat)) (L : Nat) (lens : List Nat), (ps'.map Prod.fst).Perm (ps.map Prod.fst) ∧
      pairCost ps' ≤ pairCost ps ∧ Kraft N (ps'.map Prod.snd) ∧ (ps'.map Prod.snd).Perm (L :: L :: lens) ∧
      ∀ l ∈ lens, l ≤ L := by
  induction hn : (ps.map Prod.snd).sum using Nat.strong_induction_on generalizing ps with
  | _ n ih =>
    obtain ⟨a, L, qs, hqs, hle⟩ := exists_longest (ps := ps) (by rintro rfl; simp at h2)
    have hlen := hqs.length_eq
    rw [List.length_cons] at hlen
    by_cases htwo : L ∈ qs.map Prod.snd
    · have hlens := List.perm_cons_erase htwo
      exact ⟨ps, L, _, .rfl, le_rfl, hk, (hqs.map Prod.snd).trans (hlens.cons L), fun l hl =>
        hle l (hlens.mem_iff.mpr (.tail _ hl))⟩
    · have hlt : ∀ l ∈ qs.map Prod.snd, l < L := fun l hl => lt_of_le_of_ne (hle l hl) fun h => htwo (h ▸ hl)
      have hL : 0 < L := by
        obtain ⟨q, hq⟩ := List.exists_mem_of_length_pos (show 0 < qs.length by omega)
        exact Nat.zero_lt_of_lt (hlt q.2 (List.mem_map_of_mem hq))
      have hsum := (hqs.map Prod.snd).sum_eq
      rw [List.map_cons, List.sum_cons] at hsum
      obtain ⟨ps', L', lens, hfst, hcost, h⟩ := ih _ (by simp only [List.map_cons, List.sum_cons]; omega)
        (ps := (a, L - 1) :: qs) ((hk.perm (hqs.map Prod.snd)).shorten_longest hlt hL)
        (by rw [List.length_cons]; omega) rfl
      refine ⟨ps', L', lens, hfst.trans (hqs.map Prod.fst).symm, hcost.trans ?_, h⟩
      rw [pairCost_perm hqs, pairCost_cons, pairCost_cons]
      exact Nat.add_le_add_right (Nat.mul_le_mul_left a (Nat.sub_le L 1)) _

/-- The lightest weight can take the longest code: exchanging it with the weight that has it costs nothing. -/
theorem exists_lightest_longest {ps : List (Nat × Nat)} {x L : Nat} {rest lens : List Nat}
    (hfst : (ps.map Prod.fst).Perm (x :: rest)) (hx : ∀ w ∈ rest, x ≤ w) (hsnd : (ps.map Prod.snd).Perm (L :: lens))
    (hL : ∀ l ∈ lens, l ≤ L) : ∃ qs : List (Nat × Nat), (qs.map Prod.fst).Perm rest ∧ (qs.map Prod.snd).Perm lens ∧
      x * L + pairCost qs ≤ pairCost ps := by
  obtain ⟨⟨a, L'⟩, haL, rfl⟩ := List.mem_map.mp (hsnd.mem_iff.mpr List.mem_cons_self)
  obtain ⟨ps1, h1⟩ : ∃ ps1, ps.Perm ((a, L') :: ps1) := ⟨_, List.perm_cons_erase haL⟩
  have hsnd1 : (ps1.map Prod.snd).Perm lens := ((h1.map Prod.snd).symm.trans hsnd).cons_inv
  have hfst1 : (a :: ps1.map Prod.fst).Perm (x :: rest) := (h1.map Prod.fst).symm.trans hfst
  rw [pairCost_perm h1, pairCost_cons]
  by_cases hax : a = x
  · subst hax
    exact ⟨ps1, hfst1.cons_inv, hsnd1, le_rfl⟩
  · have hxmem : x ∈ ps1.map Prod.fst := List.mem_of_ne_of_mem (Ne.symm hax) (hfst1.mem_iff.mpr List.mem_cons_self)
    obtain ⟨⟨x', l⟩, hxl, rfl⟩ := List.mem_map.mp hxmem
    obtain ⟨ps2, h2⟩ : ∃ ps2, ps1.Perm ((x', l) :: ps2) := ⟨_, List.perm_cons_erase hxl⟩
    have hxa : x' ≤ a := hx a (List.mem_of_ne_of_mem hax (hfst1.mem_iff.mp List.mem_cons_self))
    have hlL : l ≤ L' := hL l (hsnd1.mem_iff.mp (List.mem_map_of_mem (f := Prod.snd) hxl))
    refine ⟨(a, l) :: ps2, ?_, (h2.map Prod.snd).symm.trans hsnd1, ?_⟩
    · exact ((List.Perm.swap a x' _).trans (((h2.map Prod.fst).symm.cons a).trans hfst1)).cons_inv
    · have hexchange := mul_add_mul_le_mul_add_mul hxa hlL
      rw [pairCost_perm h2, pairCost_cons, pairCost_cons]
      dsimp only
      omega

/-! ### Huffman's merges -/

/-- No assignment of code lengths to the weights `ws` costs less than `C`. -/
def LeastCost (ws : List Nat) (C : Nat) : Prop :=
  ∀ (N : Nat) (ps : List (Nat × Nat)), (ps.map Prod.fst).Perm ws → Kraft N (ps.map Prod.snd) → C ≤ pairCost ps

theorem leastCost_zero (ws : List Nat) : LeastCost ws 0 := fun _ _ _ _ => Nat.zero_le _

theorem LeastCost.perm {ws ws' : List Nat} {C : Nat} (h : LeastCost ws C) (hp : ws.Perm ws') : LeastCost ws' C :=
  fun N ps hfst hk => h N ps (hfst.trans hp.symm) hk

/-- Undoing the merge of the two lightest weights adds their sum to the least cost. -/
theorem LeastCost.of_merged {x y C : Nat} {rest : List Nat} (hx : ∀ w ∈ y :: rest, x ≤ w) (hy : ∀ w ∈ rest, y ≤ w)
    (h : LeastCost ((x + y) :: rest) C) : LeastCost (x :: y :: rest) (x + y + C) := by
  intro N ps hfst hk
  have h2 : 2 ≤ ps.length := by
    have := hfst.length_eq
    simp only [List.length_map, List.length_cons] at this
    omega
  obtain ⟨ps', L, lens, hfst', hcost, hk', hsnd, hL⟩ := exists_two_longest hk h2
  obtain ⟨qs, hqfst, hqsnd, hqcost⟩ := exists_lightest_longest (hfst'.trans hfst) hx hsnd (by simpa using hL)
  obtain ⟨rs, hrfst, hrsnd, hrcost⟩ := exists_lightest_longest hqfst hy hqsnd hL
  obtain ⟨hLpos, hjoin⟩ := (hk'.perm hsnd).join
  have hC := h N ((x + y, L - 1) :: rs) (hrfst.cons _) (hjoin.perm (hrsnd.symm.cons _))
  have hmul : (x + y) * (L - 1) + (x + y) = x * L + y * L := by
    rw [← Nat.mul_succ, Nat.succ_eq_add_one, Nat.sub_add_cancel hLpos, Nat.add_mul]
  rw [pairCost_cons] at hC
  omega

end Sys2Proof.Machine
end

section
/-! SUPPORT. The code of BUILD's tree is optimal: its weighted length is the sum of the internal weights, which no assignment
of code words beats (42_tree_builder.md R158 (a), 43_code_table_walker.md R175). -/

namespace Sys2Proof.Machine

/-! ### The cost of a tree -/

/-- The internal weights of the tree at an index sum to `c`. -/
inductive TreeCost (N : Arena) : NodeIdx → Nat → Prop where
  | leaf {i : NodeIdx} {s : Byte} {w : Word} (h : nodeAt N i = .leaf s w) : TreeCost N i 0
  | internal {i l r : NodeIdx} {w : Word} {c d : Nat} (h : nodeAt N i = .internal w l r) (hl : TreeCost N l c)
      (hr : TreeCost N r d) : TreeCost N i (w.toNat + (c + d))

/-- The internal weights of the trees of the live nodes sum to `C`. -/
inductive ForestCost (N : Arena) : List Key → Nat → Prop where
  | nil : ForestCost N [] 0
  | cons {k : Key} {live : List Key} {c C : Nat} (h : TreeCost N k.index c) (t : ForestCost N live C) :
      ForestCost N (k :: live) (c + C)

/-- Entries written where none was in use change no tree. -/
theorem TreeCost.mono {N N' : Arena} (hN : ∀ j, nodeAt N j ≠ .free → nodeAt N' j = nodeAt N j) {i : NodeIdx} {c : Nat}
    (h : TreeCost N i c) : TreeCost N' i c := by
  induction h with
  | leaf h => exact .leaf ((hN _ (by simp [h])).trans h)
  | internal h _ _ ihl ihr => exact .internal ((hN _ (by simp [h])).trans h) ihl ihr

theorem ForestCost.mono {N N' : Arena} (hN : ∀ j, nodeAt N j ≠ .free → nodeAt N' j = nodeAt N j) {live : List Key}
    {C : Nat} (h : ForestCost N live C) : ForestCost N' live C := by
  induction h with
  | nil => exact .nil
  | cons h _ ih => exact .cons (h.mono hN) ih

theorem ForestCost.perm {N : Arena} {live live' : List Key} (hp : live.Perm live') {C : Nat} (h : ForestCost N live C) :
    ForestCost N live' C := by
  induction hp generalizing C with
  | nil => exact h
  | cons k _ ih =>
    cases h with
    | cons h t => exact .cons h (ih t)
  | swap k k' l =>
    cases h with
    | cons h t =>
      cases t with
      | cons h' t =>
        rw [Nat.add_left_comm]
        exact .cons h' (.cons h t)
  | trans _ _ ih ih' => exact ih' (ih h)

/-- After INIT there is no internal node. -/
theorem initLeaves_forestCost (f : FreqTable) : ForestCost (initLeaves f).node (initLeaves f).live 0 := by
  have hzero : ∀ l : List Byte, (∀ s ∈ l, f.at s ≠ 0#32) → ForestCost (initLeaves f).node (l.map (leafKey f)) 0 := by
    intro l hl
    induction l with
    | nil => exact .nil
    | cons s l ih =>
      obtain ⟨hs, hl⟩ := List.forall_mem_cons.mp hl
      exact .cons (c := 0) (.leaf (nodeAt_initLeaves_eq_leaf.mpr ⟨rfl, hs, rfl⟩)) (ih hl)
  rw [initLeaves_live]
  exact hzero _ fun s hs => mem_presentSymbols.mp hs

section
variable {f : FreqTable} {b : Build}

/-- A merge adds the weight of its node to the cost of the forest. -/
theorem Build.Exact.forestCost_merged (E : b.Exact f) (hf : total f < 2 ^ 32) {x y : Key} {rest : List Key} {C : Nat}
    (h : b.live.Perm (x :: y :: rest)) (hC : ForestCost b.node b.live C) :
    ForestCost (b.merged x y rest).node (b.merged x y rest).live (x.weight.toNat + y.weight.toNat + C) := by
  have I := E.toInv
  have hnext := I.next_lt h
  have hmono : ∀ j, nodeAt b.node j ≠ .free → nodeAt (b.merged x y rest).node j = nodeAt b.node j := fun j =>
    I.nodeAt_merged_of_used h
  have hnew : nodeAt (b.merged x y rest).node (BitVec.ofNat 9 b.next) =
      .internal (x.weight + y.weight) x.index y.index := by
    rw [I.nodeAt_merged h, if_pos (by rw [BitVec.toNat_ofNat]; omega)]
  rcases hC.perm h with _ | ⟨hx, _ | ⟨hy, hrest⟩⟩
  have hjoin := ForestCost.cons (k := ⟨x.weight + y.weight, BitVec.ofNat 9 b.next⟩)
    (.internal hnew (hx.mono hmono) (hy.mono hmono)) (hrest.mono hmono)
  rw [E.toNat_add hf h] at hjoin
  simp only [Nat.add_assoc] at hjoin ⊢
  exact hjoin.perm (List.perm_append_singleton _ rest).symm

/-- The weights that the merges of the loop add are the least cost of code lengths for the live weights. -/
theorem Build.Exact.mergeLoop_treeCost (hf : total f < 2 ^ 32) : ∀ (n : Nat) {b : Build} {C : Nat}, b.Exact f →
    b.live.length ≤ n + 1 → ForestCost b.node b.live C →
    ∃ D, LeastCost (b.live.map fun k => k.weight.toNat) D ∧
      ∀ k, (mergeLoop n b).live = [k] → TreeCost (mergeLoop n b).node k.index (C + D)
  | n, b, C, E, hn, hC => by
    by_cases h2 : 2 ≤ b.live.length
    · obtain ⟨n, rfl⟩ : ∃ m, n = m + 1 := ⟨n - 1, by omega⟩
      obtain ⟨x, y, rest, hpop, e⟩ := mergeStep_eq_merged h2
      have hlen := hpop.length_live
      have hlen' := b.length_merged_live x y rest
      obtain ⟨D, hD, hcost⟩ := Build.Exact.mergeLoop_treeCost hf n (E.merged hf hpop.perm) (by omega)
        (E.forestCost_merged hf hpop.perm hC)
      rw [mergeLoop_succ e]
      refine ⟨x.weight.toNat + y.weight.toNat + D, ?_, fun k hk => ?_⟩
      · have hmerged : ((b.merged x y rest).live.map fun k => k.weight.toNat).Perm
            ((x.weight.toNat + y.weight.toNat) :: rest.map fun k => k.weight.toNat) := by
          rw [← E.toNat_add hf hpop.perm]
          exact (List.perm_append_singleton _ rest).map fun k : Key => k.weight.toNat
        have hleast := (hD.perm hmerged).of_merged (by simpa using hpop.first_le) (by simpa using hpop.second_le)
        exact hleast.perm (hpop.perm.map fun k : Key => k.weight.toNat).symm
      · have := hcost k hk
        rwa [show x.weight.toNat + y.weight.toNat + C + D = C + (x.weight.toNat + y.weight.toNat + D) by omega] at this
    · rw [mergeLoop_of_length_lt_two (by omega)]
      refine ⟨0, leastCost_zero _, fun k hk => ?_⟩
      rw [hk] at hC
      rcases hC with _ | ⟨h, ⟨⟩⟩
      exact h

/-! ### The cost of the codes -/

/-- The sum over pairs (symbol, code) of count × length. -/
def codesCost (f : FreqTable) (ps : List (Byte × Code)) : Nat := (ps.map fun q => (f.at q.1).toNat * q.2.length).sum

@[simp] theorem codesCost_append (ps qs : List (Byte × Code)) :
    codesCost f (ps ++ qs) = codesCost f ps + codesCost f qs := by simp [codesCost]

/-- The codes below an index with the path `p` cost the weight there times the length of `p`, and each internal weight once
more. -/
theorem Build.Exact.codesCost_paths (E : b.Exact f) {i : NodeIdx} {c : Nat} (h : TreeCost b.node i c) :
    ∀ {n : Nat} {p : Bits}, i.toNat < n → (p = [] → 256 ≤ i.toNat) →
      codesCost f (paths n b.node i p) = (nodeAt b.node i).weight.toNat * p.length + c := by
  have I := E.toInv
  induction h with
  | @leaf i s w h =>
    rintro (_ | n) p hn hp
    · omega
    have hi := (I.forest.leaf i s w h).1
    obtain ⟨-, rfl⟩ := (I.leaf s w).mp (hi ▸ h)
    have hlt : i.toNat < 256 := by
      rw [hi, toNat_setWidth_nine]
      exact s.toNat_lt
    have hne : p ≠ [] := fun h0 => absurd (hp h0) (Nat.not_le.mpr hlt)
    have hnil : i ≠ NIL := ne_nil_of_used (N := b.node) (by simp [h])
    simp [paths, h, hnil, hne, codesCost, Node.weight]
  | @internal i l r w c d h hl hr ihl ihr =>
    rintro (_ | n) p hn hp
    · omega
    have hllt := (I.forest.child i w l r h l (.inl rfl)).1
    have hrlt := (I.forest.child i w l r h r (.inr rfl)).1
    have hnil : i ≠ NIL := ne_nil_of_used (N := b.node) (by simp [h])
    have hpaths : paths (n + 1) b.node i p = paths n b.node l (p ++ [false]) ++ paths n b.node r (p ++ [true]) := by
      simp [paths, h, hnil]
    rw [hpaths, codesCost_append, ihl (by omega) (by simp), ihr (by omega) (by simp), h, Node.weight, E.sums i w l r h]
    simp only [List.length_append, List.length_singleton]
    ring

theorem weightedLength_eq (f : FreqTable) (len : Byte → Nat) :
    weightedLength f len = ((presentSymbols f).map fun s => (f.at s).toNat * len s).sum := by
  rw [sum_map_presentSymbols fun s hs => by rw [hs]; exact Nat.zero_mul _, List.map_map]
  rfl

/-- The table made of a list of pairs costs no more than the list. -/
theorem weightedLength_tableOf_le (f : FreqTable) (ps : List (Byte × Code)) :
    weightedLength f (fun a => (codeOf (tableOf ps) a).length) ≤ codesCost f ps := by
  induction ps using List.reverseRecOn with
  | nil => simp [weightedLength_eq, tableOf, emptyTable, codeOf, codesCost]
  | append_singleton ps q ih =>
    have hput : tableOf (ps ++ [q]) = (tableOf ps).put q.1 (some q.2) := List.foldl_concat ..
    have hle : ∀ a, (f.at a).toNat * (codeOf (tableOf (ps ++ [q])) a).length ≤
        (f.at a).toNat * (codeOf (tableOf ps) a).length + if a = q.1 then (f.at q.1).toNat * q.2.length else 0 := by
      intro a
      rw [hput, codeOf, Table.at_put]
      by_cases ha : q.1 = a
      · simp [ha]
      · simp [ha, Ne.symm ha, codeOf]
    have hsingle : ((presentSymbols f).map fun a => if a = q.1 then (f.at q.1).toNat * q.2.length else 0).sum ≤
        (f.at q.1).toNat * q.2.length := by
      rw [List.sum_map_eq_nsmul_single q.1 _ fun a ha _ => if_neg ha, if_pos rfl, smul_eq_mul]
      exact (Nat.mul_le_mul_right _ (List.nodup_iff_count_le_one.mp (nodup_presentSymbols f) q.1)).trans_eq (Nat.one_mul _)
    rw [weightedLength_eq] at ih ⊢
    calc _ ≤ _ := List.sum_le_sum fun a _ => hle a
      _ ≤ codesCost f ps + (f.at q.1).toNat * q.2.length := by
        rw [List.sum_map_add]
        exact Nat.add_le_add ih hsingle
      _ = codesCost f (ps ++ [q]) := by simp [codesCost]

end

/-! ### Optimality -/

/-- With two or more present symbols the codes of BUILD's tree have the least cost of all code lengths for the counters. -/
theorem leastCost_codes_buildTree {f : FreqTable} (hf : total f < 2 ^ 32) (h2 : 2 ≤ present f) :
    LeastCost ((presentSymbols f).map fun s => (f.at s).toNat) (codesCost f (codes (buildTree f).1 (buildTree f).2)) := by
  obtain ⟨k, hlive, hbuild, -, hindex⟩ := buildTree_of_two_le_present h2 hf
  obtain ⟨D, hD, hcost⟩ := (initLeaves_exact f).mergeLoop_treeCost hf (present f - 1)
    (by rw [length_initLeaves_live]; omega) (initLeaves_forestCost f)
  have hpaths := (mergeLoop_exact hf (present f - 1)).codesCost_paths (hcost k hlive) (n := 512) (p := []) k.index.isLt
    fun _ => by omega
  rw [List.length_nil, Nat.mul_zero, Nat.zero_add, Nat.zero_add] at hpaths
  rw [hbuild, codes, hpaths]
  rwa [initLeaves_live, List.map_map] at hD

/-- No code words for the present symbols, none beginning another, cost less than the codes of BUILD's tree (R158 (a)). -/
theorem codesCost_buildTree_le {f : FreqTable} (hf : total f < 2 ^ 32) {c : Byte → Bits}
    (hne : ∀ a, f.at a ≠ 0#32 → c a ≠ []) (hfree : ∀ a b, f.at a ≠ 0#32 → f.at b ≠ 0#32 → a ≠ b → ¬ c a <+: c b) :
    codesCost f (codes (buildTree f).1 (buildTree f).2) ≤ weightedLength f fun a => (c a).length := by
  have hpresent := present_eq_length_presentSymbols f
  rw [weightedLength_eq]
  rcases hsymbols : presentSymbols f with _ | ⟨b, _ | ⟨b', l⟩⟩
  · have hlive : (initLeaves f).live = [] := by rw [initLeaves_live, hsymbols, List.map_nil]
    rw [buildTree_of_live_eq_nil hlive, codes, paths, if_pos rfl]
    exact Nat.zero_le _
  · obtain ⟨hN, hroot⟩ := buildTree_of_presentSymbols_singleton hsymbols
    have hpos : 1 ≤ (c b).length := List.length_pos_iff.mpr (hne b (mem_presentSymbols.mp (by simp [hsymbols])))
    rw [hroot, hN.codes_eq]
    simpa [codesCost] using Nat.le_mul_of_pos_right (f.at b).toNat hpos
  · rw [hsymbols, List.length_cons, List.length_cons] at hpresent
    have hle : ∀ a ∈ presentSymbols f, (c a).length ≤ ((presentSymbols f).map fun a => (c a).length).sum := fun a ha =>
      List.le_sum_of_mem (List.mem_map_of_mem ha)
    have hmem : ∀ {a}, a ∈ presentSymbols f → f.at a ≠ 0#32 := mem_presentSymbols.mp
    have hkraft := kraft_of_prefixFree (nodup_presentSymbols f) (fun a ha => hne a (hmem ha))
      (fun a ha b hb => hfree a b (hmem ha) (hmem hb)) hle
    have hleast := leastCost_codes_buildTree hf (by omega) _
      ((presentSymbols f).map fun s => ((f.at s).toNat, (c s).length))
      (by rw [List.map_map]; exact .rfl) (by rw [List.map_map]; exact hkraft)
    rwa [pairCost, List.map_map, hsymbols] at hleast

/-- Settles O18: the walked code costs the internal weights of the tree, and by Kraft's inequality and the exchange argument
every assignment of code words costs at least those. -/
theorem huffmanCodeIsOptimal : Obligations.HuffmanCodeIsOptimal := by
  intro s t u hf ht hu c hne hfree
  obtain ⟨t', ht', hnode, hroot, -⟩ := buildBody_clearStatus_spec s
  obtain rfl : t = t' := by simpa using ht.symm.trans ht'
  have hcode : u.code = tableOf (codes (buildTree s.freq).1 (buildTree s.freq).2) := by
    rw [exec_walk, walkBody_eq] at hu
    injection hu with hu
    rw [← hu, ← hnode, ← hroot]
    simp [walkTable]
  rw [hcode]
  exact (weightedLength_tableOf_le s.freq _).trans (codesCost_buildTree_le hf hne hfree)

end Sys2Proof.Machine
end

section
/-! SUPPORT. The paths from a node to the leaves below it, and WALK's table as those from the root (43_code_table_walker.md
R171, R172). -/

namespace Sys2Proof.Machine

/-! ### Paths to leaves -/

theorem pathTo_nil_iff {N : Arena} {i : NodeIdx} {s : Byte} : PathTo N i [] s ↔ ∃ w, nodeAt N i = .leaf s w := by
  constructor
  · rintro ⟨h⟩
    exact ⟨_, h⟩
  · rintro ⟨w, h⟩
    exact .leaf h

/-- The first edge of a path to a leaf leaves an INTERNAL entry by the child that its bit names. -/
theorem pathTo_cons_iff {N : Arena} {i : NodeIdx} {b : Bool} {p : Bits} {s : Byte} : PathTo N i (b :: p) s ↔
    ∃ w l r, nodeAt N i = .internal w l r ∧ PathTo N (if b then r else l) p s := by
  constructor
  · rintro (_ | ⟨h, t⟩ | ⟨h, t⟩)
    · exact ⟨_, _, _, h, t⟩
    · exact ⟨_, _, _, h, t⟩
  · rintro ⟨w, l, r, h, t⟩
    cases b
    · exact .left h t
    · exact .right h t

theorem PathTo.used {N : Arena} {i : NodeIdx} {p : Bits} {s : Byte} (h : PathTo N i p s) : nodeAt N i ≠ .free := by
  cases h <;> simp [*]

/-- A path to a leaf is a path of existing children that ends at the leaf. -/
theorem pathTo_iff_reaches {N : Arena} {s : Byte} : ∀ {p : Bits} {i : NodeIdx},
    PathTo N i p s ↔ ∃ j w, Reaches N i p j ∧ nodeAt N j = .leaf s w
  | [], i => by simp [pathTo_nil_iff, reaches_nil_iff]
  | b :: p, i => by
    rw [pathTo_cons_iff]
    constructor
    · rintro ⟨v, l, r, hi, t⟩
      obtain ⟨j, w, hj, hleaf⟩ := pathTo_iff_reaches.mp t
      exact ⟨j, w, reaches_cons_iff.mpr ⟨v, l, r, hi, ne_nil_of_used t.used, hj⟩, hleaf⟩
    · rintro ⟨j, w, h, hleaf⟩
      obtain ⟨v, l, r, hi, -, t⟩ := reaches_cons_iff.mp h
      exact ⟨v, l, r, hi, pathTo_iff_reaches.mpr ⟨j, w, t, hleaf⟩⟩

/-- No path to a leaf goes on to another leaf (R176). -/
theorem PathTo.eq_of_prefix {N : Arena} {a b : Byte} : ∀ {c d : Bits} {i : NodeIdx},
    PathTo N i c a → PathTo N i d b → c <+: d → c = d ∧ a = b
  | [], [], i, hc, hd, _ => by
    obtain ⟨w, hw⟩ := pathTo_nil_iff.mp hc
    obtain ⟨v, hv⟩ := pathTo_nil_iff.mp hd
    cases hw.symm.trans hv
    exact ⟨rfl, rfl⟩
  | [], y :: d, i, hc, hd, _ => by
    obtain ⟨w, hw⟩ := pathTo_nil_iff.mp hc
    obtain ⟨v, l, r, hv, -⟩ := pathTo_cons_iff.mp hd
    cases hw.symm.trans hv
  | x :: c, [], i, _, _, h => by simp at h
  | x :: c, y :: d, i, hc, hd, h => by
    obtain ⟨rfl, h'⟩ := List.cons_prefix_cons.mp h
    obtain ⟨w, l, r, hw, hc⟩ := pathTo_cons_iff.mp hc
    obtain ⟨v, l', r', hv, hd⟩ := pathTo_cons_iff.mp hd
    cases hw.symm.trans hv
    obtain ⟨rfl, rfl⟩ := hc.eq_of_prefix hd h'
    exact ⟨rfl, rfl⟩

theorem Reaches.append {N : Arena} {i j k : NodeIdx} {p q : Bits} (h : Reaches N i p j) (t : Reaches N j q k) :
    Reaches N i (p ++ q) k := by
  induction h with
  | here i => exact t
  | left h hl _ ih => exact .left h hl (ih t)
  | right h hr _ ih => exact .right h hr (ih t)

/-! ### The pairs below a node -/

section
variable {N : Arena} {i l r : NodeIdx} {s : Byte} {w : Word} {p : Bits}

theorem paths_of_free (n : Nat) (h : nodeAt N i = .free) : paths n N i p = [] := by
  cases n <;> simp [paths, h]

theorem paths_succ_of_leaf (n : Nat) (h : nodeAt N i = .leaf s w) :
    paths (n + 1) N i p = [(s, if p.isEmpty then [false] else p)] := by
  simp [paths, h, ne_nil_of_used (N := N) (i := i) (by simp [h])]

theorem paths_succ_of_internal (n : Nat) (h : nodeAt N i = .internal w l r) :
    paths (n + 1) N i p = paths n N l (p ++ [false]) ++ paths n N r (p ++ [true]) := by
  simp [paths, h, ne_nil_of_used (N := N) (i := i) (by simp [h])]

end

section
variable {N : Arena} {root : NodeIdx} (T : TreeWf N root)
include T

/-- The child that a bit names, when there is one, is an entry in use. -/
theorem TreeWf.child_used {i l r : NodeIdx} {w : Word} (h : nodeAt N i = .internal w l r) (b : Bool)
    (hc : (if b then r else l) ≠ NIL) : nodeAt N (if b then r else l) ≠ .free := by
  obtain ⟨p, hp, -⟩ := T.once i (by simp [h])
  have hroot : root ≠ NIL := fun h0 => by simp [T.empty h0 i] at h
  exact T.neverFree hroot _ _ (hp.append (reaches_cons_iff.mpr ⟨w, l, r, h, hc, reaches_nil_iff.mpr rfl⟩))

/-- A child that exists keeps a depth bound on the index, less one (R156). -/
theorem TreeWf.child_lt {i l r : NodeIdx} {w : Word} {n : Nat} (h : nodeAt N i = .internal w l r) (hn : i.toNat < n + 1)
    (b : Bool) (hc : (if b then r else l) ≠ NIL) : (if b then r else l).toNat < n := by
  obtain ⟨hl, hr⟩ := T.ordered i w l r h
  cases b with
  | false => exact hl.trans_le (Nat.le_of_lt_succ hn)
  | true => exact (hr hc).trans_le (Nat.le_of_lt_succ hn)

theorem TreeWf.children_lt {i l r : NodeIdx} {w : Word} {n : Nat} (h : nodeAt N i = .internal w l r)
    (hn : i.toNat < n + 1) : (l ≠ NIL → l.toNat < n) ∧ (r ≠ NIL → r.toNat < n) :=
  ⟨T.child_lt h hn false, T.child_lt h hn true⟩

/-- From an entry in use a path to a leaf follows any bits that go right only where there is a right child. -/
theorem TreeWf.exists_pathTo_along {n : Nat} : ∀ {i : NodeIdx} (f : Nat → Bool), i.toNat < n → nodeAt N i ≠ .free →
    (∀ j w l r k, nodeAt N j = .internal w l r → f k = true → r ≠ NIL) →
    ∃ q s, PathTo N i q s ∧ ∀ k : Nat, k < q.length → q[k]? = some (f k) := by
  induction n with
  | zero => exact fun _ h => absurd h (Nat.not_lt_zero _)
  | succ n ih =>
    intro i f hn hi hf
    cases h : nodeAt N i with
    | free => exact absurd h hi
    | leaf s w => exact ⟨[], s, .leaf h, fun k hk => absurd hk (Nat.not_lt_zero k)⟩
    | internal w l r =>
      have hc : (if f 0 then r else l) ≠ NIL := by
        cases h0 : f 0
        · exact T.leftChild i w l r h
        · exact hf i w l r 0 h h0
      obtain ⟨q, s, hq, hqf⟩ := ih (fun k => f (k + 1)) (T.child_lt h hn _ hc) (T.child_used h _ hc)
        fun j w l r k => hf j w l r (k + 1)
      refine ⟨f 0 :: q, s, pathTo_cons_iff.mpr ⟨w, l, r, h, hq⟩, fun k hk => ?_⟩
      cases k with
      | zero => rfl
      | succ k => exact hqf k (Nat.lt_of_succ_lt_succ hk)

/-- Below every entry in use there is a leaf: the left edges lead to one. -/
theorem TreeWf.exists_pathTo {i : NodeIdx} (hi : nodeAt N i ≠ .free) : ∃ q s, PathTo N i q s := by
  obtain ⟨q, s, hq, -⟩ := T.exists_pathTo_along (fun _ => false) i.isLt hi fun _ _ _ _ _ _ => nofun
  exact ⟨q, s, hq⟩

/-- The pairs below an index are the leaves there with their paths (R171). -/
theorem TreeWf.mem_paths_iff {n : Nat} {s : Byte} {c : Code} : ∀ {i : NodeIdx} {p : Bits}, (i ≠ NIL → i.toNat < n) →
    ((s, c) ∈ paths n N i p ↔ ∃ q, PathTo N i q s ∧ c = if (p ++ q).isEmpty then [false] else p ++ q) := by
  induction n with
  | zero =>
    intro i p hn
    obtain rfl : i = NIL := by
      by_contra h
      exact Nat.not_lt_zero _ (hn h)
    rw [paths_of_free 0 (nodeAt_nil N)]
    exact ⟨nofun, fun ⟨q, hq, _⟩ => absurd (nodeAt_nil N) hq.used⟩
  | succ n ih =>
    intro i p hn
    cases h : nodeAt N i with
    | free =>
      rw [paths_of_free _ h]
      exact ⟨nofun, fun ⟨q, hq, _⟩ => absurd h hq.used⟩
    | leaf a w =>
      rw [paths_succ_of_leaf n h, List.mem_singleton, Prod.mk.injEq]
      constructor
      · rintro ⟨rfl, rfl⟩
        exact ⟨[], .leaf h, by rw [List.append_nil]⟩
      · rintro ⟨q, hq, rfl⟩
        obtain ⟨rfl, rfl⟩ := (PathTo.leaf h).eq_of_prefix hq List.nil_prefix
        exact ⟨rfl, by rw [List.append_nil]⟩
    | internal w l r =>
      have hi := hn (ne_nil_of_used (N := N) (by simp [h]))
      obtain ⟨hl, hr⟩ := T.children_lt h hi
      rw [paths_succ_of_internal n h, List.mem_append, ih hl, ih hr]
      constructor
      · rintro (⟨q, hq, rfl⟩ | ⟨q, hq, rfl⟩)
        · exact ⟨false :: q, .left h hq, by simp⟩
        · exact ⟨true :: q, .right h hq, by simp⟩
      · rintro ⟨_ | ⟨b, q⟩, hq, rfl⟩
        · obtain ⟨v, hv⟩ := pathTo_nil_iff.mp hq
          cases h.symm.trans hv
        · obtain ⟨v, l', r', hv, hq⟩ := pathTo_cons_iff.mp hq
          cases h.symm.trans hv
          cases b
          · exact .inl ⟨q, hq, by simp⟩
          · exact .inr ⟨q, hq, by simp⟩

/-- A code below an index begins with the path to the index. -/
theorem TreeWf.prefix_of_mem_paths {n : Nat} {i : NodeIdx} {p : Bits} {s : Byte} {c : Code} (hn : i ≠ NIL → i.toNat < n)
    (h : (s, c) ∈ paths n N i p) : p <+: c := by
  obtain ⟨q, -, rfl⟩ := (T.mem_paths_iff hn).mp h
  cases p <;> simp

/-- The pairs below an index are distinct: left and right codes differ in the bit of the edge. -/
theorem TreeWf.nodup_paths {n : Nat} : ∀ {i : NodeIdx} {p : Bits}, (i ≠ NIL → i.toNat < n) → (paths n N i p).Nodup := by
  induction n with
  | zero => exact fun _ => List.nodup_nil
  | succ n ih =>
    intro i p hn
    cases h : nodeAt N i with
    | free => simp [paths_of_free _ h]
    | leaf s w => simp [paths_succ_of_leaf n h]
    | internal w l r =>
      have hi := hn (ne_nil_of_used (N := N) (by simp [h]))
      obtain ⟨hln, hrn⟩ := T.children_lt h hi
      rw [paths_succ_of_internal n h]
      refine (ih hln).append (ih hrn) fun ⟨s, c⟩ hleft hright => ?_
      have heq := (List.prefix_of_prefix_length_le (T.prefix_of_mem_paths hln hleft) (T.prefix_of_mem_paths hrn hright)
        (by simp)).eq_of_length (by simp)
      simp at heq

/-! ### The pairs of a tree -/

theorem TreeWf.used_root (h : root ≠ NIL) : nodeAt N root ≠ .free := by
  obtain ⟨w, l, r, h⟩ := T.rootInternal h
  simp [h]

/-- The codes are the paths from the root to the leaves: the root is no leaf, so none is empty (R171). -/
theorem TreeWf.mem_codes_iff {s : Byte} {c : Code} : (s, c) ∈ codes N root ↔ PathTo N root c s := by
  rw [codes, T.mem_paths_iff fun _ => root.isLt]
  have hne : ∀ q, PathTo N root q s → q ≠ [] := by
    rintro q hq rfl
    obtain ⟨w, hw⟩ := pathTo_nil_iff.mp hq
    obtain ⟨v, l, r, hv⟩ := T.rootInternal (ne_nil_of_used hq.used)
    cases hw.symm.trans hv
  constructor
  · rintro ⟨q, hq, rfl⟩
    simpa [hne q hq] using hq
  · exact fun hc => ⟨c, hc, by simp [hne c hc]⟩

/-- The leaf of a symbol has one path (R34 (a), R31). -/
theorem TreeWf.pathTo_unique {s : Byte} {c d : Bits} (hc : PathTo N root c s) (hd : PathTo N root d s) : c = d := by
  obtain ⟨i, v, hi, hv⟩ := pathTo_iff_reaches.mp hc
  obtain ⟨j, w, hj, hw⟩ := pathTo_iff_reaches.mp hd
  obtain rfl : i = j := (T.leafPlace i s v hv).1.trans (T.leafPlace j s w hw).1.symm
  exact (T.once i (by simp [hv])).unique hi hj

/-- There is at most one pair for a symbol, so at most 256 (R171). -/
theorem TreeWf.length_codes_le : (codes N root).length ≤ 256 := by
  have hnodup : ((codes N root).map Prod.fst).Nodup := by
    refine (T.nodup_paths fun _ => root.isLt).map_on fun ⟨s, c⟩ hc ⟨s', d⟩ hd hs => ?_
    obtain rfl : s = s' := hs
    rw [T.pathTo_unique (T.mem_codes_iff.mp hc) (T.mem_codes_iff.mp hd)]
  have hcard : Fintype.card Byte = 2 ^ 8 := FinEnum.card_eq_fintypeCard.symm.trans (FinEnum.card_bitVec 8)
  have hle := hnodup.length_le_card
  rwa [List.length_map, hcard] at hle

/-- WALK's table holds the path from the root to the leaf of each symbol (R172). -/
theorem TreeWf.walkTable_at_eq_some_iff {s : Byte} {c : Code} :
    (walkTable N root).at s = some c ↔ PathTo N root c s := by
  constructor
  · exact fun h => T.mem_codes_iff.mp (mem_of_tableOf_at h)
  · intro h
    obtain ⟨d, hd⟩ := Option.isSome_iff_exists.mp (tableOf_at_isSome (T.mem_codes_iff.mpr h))
    rw [T.pathTo_unique h (T.mem_codes_iff.mp (mem_of_tableOf_at hd))]
    exact hd

/-- WALK's table has a code for exactly the symbols that have a leaf (R172). -/
theorem TreeWf.walkTable_at_isSome_iff {s : Byte} :
    ((walkTable N root).at s).isSome = true ↔ ∃ i w, nodeAt N i = .leaf s w := by
  constructor
  · intro h
    obtain ⟨c, hc⟩ := Option.isSome_iff_exists.mp h
    obtain ⟨i, w, -, hleaf⟩ := pathTo_iff_reaches.mp (T.walkTable_at_eq_some_iff.mp hc)
    exact ⟨i, w, hleaf⟩
  · rintro ⟨i, w, hleaf⟩
    exact T.walkTable_at_isSome hleaf

end

/-- Settles O20: the pairs of the tree are its paths to leaves, one for each symbol. -/
theorem walkRecordsThePathToEachLeaf : Obligations.WalkRecordsThePathToEachLeaf := by
  intro s T
  refine ⟨_, walkBody_eq s.clearStatus, fun b c => ?_, fun b => ?_, fun b c h => ?_, ?_,
    walkBody_frame (s := s.clearStatus) rfl⟩
  · simpa using T.walkTable_at_eq_some_iff
  · simpa using T.walkTable_at_isSome_iff
  · exact Code.wf_iff.mp (CodeTable.wf_iff.mp T.walkTable_wf b c (by simpa using h))
  · by_cases h : s.root = NIL <;> simp [h, EMPTY]

end Sys2Proof.Machine
end

section
/-! SUPPORT. No code of WALK's table begins another, and the table of a full tree is complete (43_code_table_walker.md
R176). -/

namespace Sys2Proof.Machine

theorem mem_toList_of_nodeAt {N : Arena} {i : NodeIdx} {n : Node} (h : nodeAt N i = n) (hn : n ≠ .free) :
    n ∈ N.toList := by
  rw [nodeAt] at h
  cases hi : N[i.toNat]? with
  | none =>
    rw [hi] at h
    exact absurd h.symm hn
  | some m =>
    rw [hi] at h
    exact h ▸ Vector.mem_toList_iff.mpr (Vector.mem_of_getElem? hi)

/-- When the arena has one LEAF entry, two leaves are of the same symbol. -/
theorem symbol_eq_of_leaves_eq_one {N : Arena} (h1 : leaves N = 1) {i j : NodeIdx} {a b : Byte} {v w : Word}
    (hi : nodeAt N i = .leaf a v) (hj : nodeAt N j = .leaf b w) : a = b := by
  obtain ⟨n, hn⟩ := List.length_eq_one_iff.mp (List.countP_eq_length_filter.symm.trans h1)
  have hmem : ∀ {k : NodeIdx} {s : Byte} {u : Word}, nodeAt N k = .leaf s u → Node.leaf s u = n := fun h =>
    List.mem_singleton.mp (hn ▸ List.mem_filter.mpr ⟨mem_toList_of_nodeAt h nofun, rfl⟩)
  exact (Node.leaf.inj ((hmem hi).trans (hmem hj).symm)).1

/-- Of two bit sequences that an infinite one begins with, the longer begins with the shorter. -/
theorem prefix_of_along {f : Nat → Bool} {x y : Bits} (hx : ∀ k : Nat, k < x.length → x[k]? = some (f k))
    (hy : ∀ k : Nat, k < y.length → y[k]? = some (f k)) (hle : x.length ≤ y.length) : x <+: y := by
  rw [List.prefix_iff_getElem?]
  intro k hk
  rw [hy k (hk.trans_le hle), ← hx k hk, List.getElem?_eq_getElem hk]

section
variable {N : Arena} {root : NodeIdx} (T : TreeWf N root)
include T

/-- No code of WALK's table begins the code of another symbol. -/
theorem TreeWf.walkTable_prefixFree : PrefixFree (walkTable N root) := fun _ _ _ _ hab hc hd h =>
  hab ((T.walkTable_at_eq_some_iff.mp hc).eq_of_prefix (T.walkTable_at_eq_some_iff.mp hd) h).2

/-- Every infinite bit sequence begins with exactly one code of a full tree. -/
theorem TreeWf.walkTable_complete (hroot : root ≠ NIL) (hfull : FullTree N) (f : Nat → Bool) :
    ∃! b : Byte, ∃ w : Code, (walkTable N root).at b = some w ∧ ∀ i : Nat, i < w.length → w[i]? = some (f i) := by
  obtain ⟨c, s, hc, hcf⟩ := T.exists_pathTo_along f root.isLt (T.used_root hroot) fun j w l r _ h _ => hfull j w l r h
  refine ⟨s, ⟨c, T.walkTable_at_eq_some_iff.mpr hc, hcf⟩, ?_⟩
  rintro b ⟨d, hd, hdf⟩
  have hd := T.walkTable_at_eq_some_iff.mp hd
  rcases Nat.le_total c.length d.length with hle | hle
  · exact (hc.eq_of_prefix hd (prefix_of_along hcf hdf hle)).2.symm
  · exact (hd.eq_of_prefix hc (prefix_of_along hdf hcf hle)).2

/-- A tree with one leaf has a root without a right child: the two children would lead to two leaves. -/
theorem TreeWf.right_eq_nil_of_one_leaf (h1 : leaves N = 1) {w : Word} {l r : NodeIdx}
    (h : nodeAt N root = .internal w l r) : r = NIL := by
  by_contra hr
  obtain ⟨c, a, hc⟩ := T.exists_pathTo (T.child_used h false (T.leftChild root w l r h))
  obtain ⟨d, b, hd⟩ := T.exists_pathTo (T.child_used h true hr)
  obtain ⟨i, v, -, hi⟩ := pathTo_iff_reaches.mp hc
  obtain ⟨j, u, -, hj⟩ := pathTo_iff_reaches.mp hd
  obtain rfl := symbol_eq_of_leaves_eq_one h1 hi hj
  exact absurd (T.pathTo_unique (.left h hc) (.right h hd)) (by simp)

/-- A tree that is not full is one leaf, the left child of the root NODE[256] (R34 (c)). -/
theorem TreeWf.one_leaf_of_not_full (hfull : ¬ FullTree N) :
    ∃ w l s v, nodeAt N root = .internal w l NIL ∧ nodeAt N l = .leaf s v := by
  simp only [FullTree, not_forall, not_not] at hfull
  obtain ⟨i, u, k, r, hi, rfl⟩ := hfull
  obtain ⟨-, h1⟩ := T.rightChild i u k hi
  obtain ⟨w, l, r, hroot⟩ := T.rootInternal fun h0 => by simp [T.empty h0 i] at hi
  obtain rfl := T.right_eq_nil_of_one_leaf h1 hroot
  obtain ⟨h256, -⟩ := T.rightChild root w l hroot
  cases hl : nodeAt N l with
  | free => exact absurd hl (T.child_used hroot false (T.leftChild root w l NIL hroot))
  | leaf s v => exact ⟨w, l, s, v, hroot, hl⟩
  | internal v l' r' =>
    have hge := T.internalPlace l v l' r' hl
    have hlt := (T.ordered root w l NIL hroot).1
    rw [h256] at hlt
    exact absurd hlt (Nat.not_lt.mpr hge)

/-- The paths of a tree that is not full: the one edge "0". -/
theorem TreeWf.exists_pathTo_iff_of_not_full (hfull : ¬ FullTree N) :
    ∃ s, ∀ c a, PathTo N root c a ↔ c = [false] ∧ a = s := by
  obtain ⟨w, l, s, v, hroot, hl⟩ := T.one_leaf_of_not_full hfull
  have h0 : PathTo N root [false] s := .left hroot (.leaf hl)
  refine ⟨s, fun c a => ⟨fun h => ?_, by rintro ⟨rfl, rfl⟩; exact h0⟩⟩
  rcases h with ⟨h⟩ | ⟨h, t⟩ | ⟨h, t⟩ <;> cases hroot.symm.trans h
  · obtain ⟨rfl, rfl⟩ := (PathTo.leaf hl).eq_of_prefix t List.nil_prefix
    exact ⟨rfl, rfl⟩
  · exact absurd (nodeAt_nil N) t.used

end

/-- Settles O21: paths to different leaves part, and a bit sequence leads to a leaf when every INTERNAL entry has two
children. -/
theorem walkedCodeIsPrefixFreeAndComplete : Obligations.WalkedCodeIsPrefixFreeAndComplete := by
  intro N root T
  refine ⟨T.walkTable_prefixFree, T.walkTable_complete, fun hfull => ?_⟩
  obtain ⟨s, hs⟩ := T.exists_pathTo_iff_of_not_full hfull
  refine ⟨s, T.walkTable_at_eq_some_iff.mpr ((hs _ _).mpr ⟨rfl, rfl⟩), fun a ha => ?_⟩
  rw [Option.eq_none_iff_forall_ne_some]
  exact fun c hc => ha ((hs c a).mp (T.walkTable_at_eq_some_iff.mp hc)).2

end Sys2Proof.Machine
end

section
/-! SUPPORT. The stack walk (43_code_table_walker.md R174): what it has written and what is on the stack are WALK's pairs. -/

namespace Sys2Proof.Machine

/-! ### One step -/

section
variable {N : Arena} {m : WalkFsm} {i l r : NodeIdx} {p : Bits} {rest : List (NodeIdx × Bits)} {s : Byte} {w : Word}

theorem WalkFsm.step_of_stack_eq_nil (h : m.stack = []) : WalkFsm.step N m = m := by
  simp [WalkFsm.step, h]

theorem WalkFsm.step_of_leaf (h : m.stack = (i, p) :: rest) (hi : nodeAt N i = .leaf s w) :
    WalkFsm.step N m = ⟨rest, m.code.put s (some p)⟩ := by
  simp [WalkFsm.step, h, hi]

theorem WalkFsm.step_of_internal (h : m.stack = (i, p) :: rest) (hi : nodeAt N i = .internal w l r) :
    WalkFsm.step N m =
      { m with stack := (l, p ++ [false]) :: if r = NIL then rest else (r, p ++ [true]) :: rest } := by
  simp [WalkFsm.step, h, hi]

theorem WalkFsm.iterate_of_stack_eq_nil (h : m.stack = []) (n : Nat) : (WalkFsm.step N)^[n] m = m :=
  Function.iterate_fixed (WalkFsm.step_of_stack_eq_nil h) n

end

/-! ### The invariant -/

/-- The pairs below the entries of a stack, in the order in which the walk writes them. -/
def pairsBelow (N : Arena) (stack : List (NodeIdx × Bits)) : List (Byte × Code) :=
  stack.flatMap fun q => paths 512 N q.1 q.2

@[simp] theorem pairsBelow_nil (N : Arena) : pairsBelow N [] = [] := rfl

@[simp] theorem pairsBelow_cons (N : Arena) (q : NodeIdx × Bits) (stack : List (NodeIdx × Bits)) :
    pairsBelow N (q :: stack) = paths 512 N q.1 q.2 ++ pairsBelow N stack := rfl

/-- The walk has written the pairs `written`; those below its stack are the rest of the tree's. -/
structure WalkFsm.Inv (N : Arena) (root : NodeIdx) (m : WalkFsm) (written : List (Byte × Code)) : Prop where
  code : m.code = tableOf written
  pairs : written ++ pairsBelow N m.stack = codes N root
  used : ∀ q ∈ m.stack, nodeAt N q.1 ≠ .free
  emptyPath : ∀ q ∈ m.stack, q.2 = [] → q.1 = root

section
variable {N : Arena} {root : NodeIdx} (T : TreeWf N root)
include T

/-- The depth bound of `paths` does not show once it exceeds the index. -/
theorem TreeWf.paths_depth {n : Nat} : ∀ {k : Nat} {i : NodeIdx} {p : Bits}, (i ≠ NIL → i.toNat < n) →
    (i ≠ NIL → i.toNat < k) → paths n N i p = paths k N i p := by
  induction n with
  | zero =>
    intro k i p hn _
    have hi : nodeAt N i = .free := by
      by_contra hused
      exact Nat.not_lt_zero _ (hn (ne_nil_of_used hused))
    rw [paths_of_free 0 hi, paths_of_free k hi]
  | succ n ih =>
    intro k i p hn hk
    by_cases hused : nodeAt N i = .free
    · rw [paths_of_free _ hused, paths_of_free k hused]
    have hn := hn (ne_nil_of_used hused)
    have hk := hk (ne_nil_of_used hused)
    cases k with
    | zero => exact absurd hk (Nat.not_lt_zero _)
    | succ k =>
      cases hi : nodeAt N i with
      | free => exact absurd hi hused
      | leaf s w => rw [paths_succ_of_leaf n hi, paths_succ_of_leaf k hi]
      | internal w l r =>
        obtain ⟨hln, hrn⟩ := T.children_lt hi hn
        obtain ⟨hlk, hrk⟩ := T.children_lt hi hk
        rw [paths_succ_of_internal n hi, paths_succ_of_internal k hi, ih hln hlk, ih hrn hrk]

/-- The pairs below an INTERNAL entry are those below its left child, then those below its right child. -/
theorem TreeWf.paths_of_internal {i l r : NodeIdx} {w : Word} {p : Bits} (h : nodeAt N i = .internal w l r) :
    paths 512 N i p = paths 512 N l (p ++ [false]) ++ paths 512 N r (p ++ [true]) := by
  obtain ⟨hl, hr⟩ := T.children_lt h i.isLt
  rw [paths_succ_of_internal 511 h, T.paths_depth hl fun _ => l.isLt, T.paths_depth hr fun _ => r.isLt]

theorem TreeWf.walkFsm_start_inv : (WalkFsm.start root).Inv N root [] := by
  by_cases h : root = NIL
  · constructor <;> simp [WalkFsm.start, h, tableOf, codes, paths_of_free 512 (nodeAt_nil N)]
  · constructor <;> simp [WalkFsm.start, h, tableOf, codes, T.used_root h]

/-- A step at a leaf writes its pair. -/
theorem WalkFsm.Inv.step_of_leaf {m : WalkFsm} {written : List (Byte × Code)} (I : m.Inv N root written) {i : NodeIdx}
    {p : Bits} {rest : List (NodeIdx × Bits)} {s : Byte} {w : Word} (h : m.stack = (i, p) :: rest)
    (hi : nodeAt N i = .leaf s w) : (WalkFsm.step N m).Inv N root (written ++ [(s, p)]) := by
  obtain ⟨hcode, hpairs, hused, hempty⟩ := I
  rw [h] at hpairs hused hempty
  have hp : p ≠ [] := fun hp => by
    obtain rfl : i = root := hempty _ List.mem_cons_self hp
    obtain ⟨v, l, r, hv⟩ := T.rootInternal (ne_nil_of_used (N := N) (by simp [hi]))
    cases hi.symm.trans hv
  rw [WalkFsm.step_of_leaf h hi]
  refine ⟨?_, ?_, fun q hq => hused q (List.mem_cons_of_mem _ hq), fun q hq => hempty q (List.mem_cons_of_mem _ hq)⟩
  · simp [hcode, tableOf]
  · simpa [paths_succ_of_leaf 511 hi, hp] using hpairs

/-- A step at an INTERNAL entry puts its children in its place. -/
theorem WalkFsm.Inv.step_of_internal {m : WalkFsm} {written : List (Byte × Code)} (I : m.Inv N root written)
    {i l r : NodeIdx} {p : Bits} {rest : List (NodeIdx × Bits)} {w : Word} (h : m.stack = (i, p) :: rest)
    (hi : nodeAt N i = .internal w l r) : (WalkFsm.step N m).Inv N root written := by
  obtain ⟨hcode, hpairs, hused, hempty⟩ := I
  rw [h] at hpairs hused hempty
  have hl := T.child_used hi false (T.leftChild i w l r hi)
  have hr := T.child_used hi true
  have hbelow : paths 512 N i p = paths 512 N l (p ++ [false]) ++ paths 512 N r (p ++ [true]) := T.paths_of_internal hi
  obtain ⟨-, hused⟩ := List.forall_mem_cons.mp hused
  obtain ⟨-, hempty⟩ := List.forall_mem_cons.mp hempty
  rw [WalkFsm.step_of_internal h hi]
  by_cases hnil : r = NIL
  · subst hnil
    refine ⟨hcode, ?_, ?_, ?_⟩
    · simpa [hbelow, paths_of_free 512 (nodeAt_nil N)] using hpairs
    · simpa using ⟨hl, fun a b => hused (a, b)⟩
    · simpa using fun a b => hempty (a, b)
  · refine ⟨hcode, ?_, ?_, ?_⟩
    · simpa [hbelow, hnil] using hpairs
    · simpa [hnil] using ⟨hl, hr hnil, fun a b => hused (a, b)⟩
    · simpa [hnil] using fun a b => hempty (a, b)

/-- A step keeps the invariant; in a full tree it writes a pair and pops, or makes the stack one longer. -/
theorem WalkFsm.Inv.step {m : WalkFsm} {written : List (Byte × Code)} (I : m.Inv N root written) (hne : m.stack ≠ []) :
    ∃ written', (WalkFsm.step N m).Inv N root written' ∧
      (FullTree N → 2 * written'.length + (WalkFsm.step N m).stack.length = 2 * written.length + m.stack.length + 1) := by
  obtain ⟨⟨i, p⟩, rest, h⟩ := List.exists_cons_of_ne_nil hne
  cases hi : nodeAt N i with
  | free => exact absurd hi (I.used (i, p) (by simp [h]))
  | leaf s w =>
    refine ⟨_, I.step_of_leaf T h hi, fun _ => ?_⟩
    rw [WalkFsm.step_of_leaf h hi, h]
    simp only [List.length_append, List.length_cons, List.length_nil]
    omega
  | internal w l r =>
    refine ⟨_, I.step_of_internal T h hi, fun hfull => ?_⟩
    rw [WalkFsm.step_of_internal h hi, h, if_neg (hfull i w l r hi)]
    simp only [List.length_cons]
    omega

/-- The invariant after `n` steps; in a full tree each step counts while the stack is not empty. -/
theorem TreeWf.walkFsm_iterate_inv (n : Nat) : ∃ written, ((WalkFsm.step N)^[n] (WalkFsm.start root)).Inv N root written ∧
    (FullTree N → ((WalkFsm.step N)^[n] (WalkFsm.start root)).stack ≠ [] →
      2 * written.length + ((WalkFsm.step N)^[n] (WalkFsm.start root)).stack.length = n + 1) := by
  induction n with
  | zero =>
    refine ⟨[], T.walkFsm_start_inv, fun _ => ?_⟩
    by_cases h : root = NIL <;> simp [WalkFsm.start, h]
  | succ n ih =>
    rw [Function.iterate_succ_apply']
    generalize (WalkFsm.step N)^[n] (WalkFsm.start root) = m at ih ⊢
    obtain ⟨written, I, hcount⟩ := ih
    by_cases hne : m.stack = []
    · rw [WalkFsm.step_of_stack_eq_nil hne]
      exact ⟨written, I, fun _ h => absurd hne h⟩
    · obtain ⟨written', I', hstep⟩ := I.step T hne
      exact ⟨written', I', fun hfull _ => by rw [hstep hfull, hcount hfull hne]⟩

/-! ### Bounds and the end of the walk -/

/-- Below every entry of the stack there is a pair, whose code begins with the path of the entry. -/
theorem WalkFsm.Inv.exists_mem_paths {m : WalkFsm} {written : List (Byte × Code)} (I : m.Inv N root written)
    {q : NodeIdx × Bits} (hq : q ∈ m.stack) : ∃ s c, (s, c) ∈ paths 512 N q.1 q.2 ∧ q.2 <+: c := by
  obtain ⟨d, s, hd⟩ := T.exists_pathTo (I.used q hq)
  have hmem := (T.mem_paths_iff (n := 512) (p := q.2) fun _ => q.1.isLt).mpr ⟨d, hd, rfl⟩
  exact ⟨s, _, hmem, T.prefix_of_mem_paths (fun _ => q.1.isLt) hmem⟩

/-- The pairs written and the entries of the stack are at most as many as the leaves. -/
theorem WalkFsm.Inv.length_le {m : WalkFsm} {written : List (Byte × Code)} (I : m.Inv N root written) :
    written.length + m.stack.length ≤ 256 := by
  have hstack : m.stack.length ≤ (pairsBelow N m.stack).length := by
    rw [pairsBelow, List.length_flatMap, ← List.length_map (f := fun q => (paths 512 N q.1 q.2).length)]
    refine List.length_le_sum_of_one_le _ fun k hk => ?_
    obtain ⟨q, hq, rfl⟩ := List.mem_map.mp hk
    obtain ⟨s, c, hmem, -⟩ := I.exists_mem_paths T hq
    exact List.length_pos_of_mem hmem
  have hle := T.length_codes_le
  rw [← I.pairs, List.length_append] at hle
  omega

/-- No path on the stack is longer than a code. -/
theorem WalkFsm.Inv.length_path_le {m : WalkFsm} {written : List (Byte × Code)} (I : m.Inv N root written)
    {q : NodeIdx × Bits} (hq : q ∈ m.stack) : q.2.length ≤ 255 := by
  obtain ⟨s, c, hmem, hprefix⟩ := I.exists_mem_paths T hq
  have hcodes : (s, c) ∈ codes N root := by
    rw [← I.pairs]
    exact List.mem_append_right _ (List.mem_flatMap.mpr ⟨q, hq, hmem⟩)
  exact hprefix.length_le.trans (Code.wf_iff.mp (T.length_of_mem_codes hcodes)).2

/-- The walk of a tree that is not full ends after the root and its leaf. -/
theorem TreeWf.walkFsm_two_steps (hfull : ¬ FullTree N) :
    ((WalkFsm.step N)^[2] (WalkFsm.start root)).stack = [] := by
  obtain ⟨w, l, s, v, hroot, hl⟩ := T.one_leaf_of_not_full hfull
  have hne : root ≠ NIL := ne_nil_of_used (N := N) (by simp [hroot])
  have hstart : (WalkFsm.start root).stack = [(root, [])] := by simp [WalkFsm.start, hne]
  have hstep := WalkFsm.step_of_internal hstart hroot
  rw [if_pos rfl] at hstep
  rw [Function.iterate_succ_apply', Function.iterate_one, hstep, WalkFsm.step_of_leaf rfl hl]

/-- The stack is empty after 511 steps: a full tree of at most 256 leaves takes two steps a leaf, less one. -/
theorem TreeWf.walkFsm_stack_eq_nil : ((WalkFsm.step N)^[511] (WalkFsm.start root)).stack = [] := by
  by_cases hfull : FullTree N
  · by_contra hne
    obtain ⟨written, I, hcount⟩ := T.walkFsm_iterate_inv 511
    have hcount := hcount hfull hne
    have hle := I.length_le T
    have hpos := List.length_pos_iff.mpr hne
    omega
  · have hend := T.walkFsm_two_steps hfull
    rw [Function.iterate_add_apply (WalkFsm.step N) 509 2, WalkFsm.iterate_of_stack_eq_nil hend, hend]

end

/-- Settles O22: what the walk has written and what is below its stack are together WALK's pairs, at most 256. -/
theorem walkPerItemStepsAgree : Obligations.WalkPerItemStepsAgree := by
  refine fun N root T => ⟨⟨T.walkFsm_stack_eq_nil, ?_⟩, fun n => ?_⟩
  · obtain ⟨written, I, -⟩ := T.walkFsm_iterate_inv 511
    have hdone := I.pairs
    rw [T.walkFsm_stack_eq_nil, pairsBelow_nil, List.append_nil] at hdone
    rw [I.code, hdone, walkTable]
  · obtain ⟨written, I, -⟩ := T.walkFsm_iterate_inv n
    exact ⟨(Nat.le_add_left _ _).trans (I.length_le T), fun q => I.length_path_le T⟩

end Sys2Proof.Machine
end

section
/-! SUPPORT. EMIT: the concatenation of the codes with its statistics, the stop at the first unmapped symbol, and the range of
the ratio (44_bitstream_encoder.md R186 to R192). -/

namespace Sys2Proof.Machine

/-! ### The payload (R186) -/

section
variable {t : CodeTable} {x : List Byte}

/-- EMIT's loop over bytes that all have codes writes the codes and meets no unmapped symbol. -/
theorem emit_of_covers (h : Covers t x) : emit t x = ⟨codesOf t x, none⟩ := by
  simpa [emit, emitFrom] using emitFrom_append (y := []) (i := 0) h

/-- EMIT's loop stops at the first byte without a code, whatever follows it (R189). -/
theorem emit_of_unmapped {b : Byte} (h : Covers t x) (hb : t.at b = none) (post : List Byte) :
    emit t (x ++ b :: post) = ⟨codesOf t x, some (b, x.length)⟩ := by
  rw [emit, emitFrom_append h, Nat.zero_add, emitFrom, hb, List.append_nil]

theorem length_codesOf (t : CodeTable) (x : List Byte) :
    (codesOf t x).length = (x.map fun b => (codeOf t b).length).sum :=
  List.length_flatMap

/-- EMIT's loop writes at least one bit a byte when it maps all of its input to codes of at least one bit. -/
theorem length_le_length_emitFrom (ht : t.wf = true) : ∀ {x : List Byte} {i : Nat}, (emitFrom t i x).unknown = none →
    x.length ≤ (emitFrom t i x).bits.length
  | [], _, _ => Nat.le_refl _
  | b :: x, i, h => by
    cases hb : t.at b with
    | none => simp [emitFrom, hb] at h
    | some c =>
      simp only [emitFrom, hb] at h ⊢
      have ih := length_le_length_emitFrom ht h
      have hc := (Code.wf_iff.mp (CodeTable.wf_iff.mp ht b c hb)).1
      rw [List.length_append, List.length_cons]
      omega

end

/-! ### The ratio (R190, R192, 10_state.md R43) -/

/-- The ratio is the floor of the rational quotient. -/
theorem ratioOf_eq_floor {o : Nat} (ho : o ≠ 0) (e : Nat) : ratioOf o e = ⌊10000 * ((o : ℚ) - (e : ℚ)) / (o : ℚ)⌋ := by
  have h := Rat.floor_intCast_div_natCast (10000 * ((o : Int) - (e : Int))) o
  push_cast at h
  rw [ratioOf, if_neg ho, Int.fdiv_eq_ediv_of_nonneg _ (Int.natCast_nonneg o), h]

/-- A payload of at least one bit a byte saves at most seven eighths. -/
theorem ratioOf_le {n e : Nat} (h : n ≤ e) : ratioOf (8 * n) e ≤ 8750 := by
  unfold ratioOf
  split
  · decide
  · have hpos : (0 : Int) < ((8 * n : Nat) : Int) := by omega
    rw [Int.fdiv_eq_ediv_of_nonneg _ hpos.le]
    exact Int.ediv_le_of_le_mul hpos (by omega)

/-- A payload of at most eight bits a byte has a ratio that is not negative. -/
theorem ratioOf_nonneg {n e : Nat} (h : e ≤ 8 * n) : 0 ≤ ratioOf (8 * n) e := by
  unfold ratioOf
  split
  · exact le_rfl
  · exact Int.fdiv_nonneg (by omega) (Int.natCast_nonneg _)

/-! ### The command (R187, R189) -/

/-- The state a completed EMIT leaves. -/
def State.emitted (s : State) : State :=
  ((s.withBits (codesOf s.code s.inputBytes)).withStats (BitVec.ofNat 32 (8 * s.inLen.toNat))
    (BitVec.ofNat 32 (codesOf s.code s.inputBytes).length)
    (BitVec.ofInt 32 (ratioOf (8 * s.inLen.toNat) (codesOf s.code s.inputBytes).length))).flagIf (s.inLen == 0#32) EMPTY

section
variable {P : Params} {s : State}

theorem emitBody_of_covers (hin : s.inSize ≤ s.cfgMaxInput.toNat) (hcov : Covers s.code s.inputBytes)
    (hfit : (codesOf s.code s.inputBytes).length ≤ P.bitsCap) : emitBody P s = .next s.emitted := by
  rw [emitBody, bounded_of_le _ hin]
  simp only [emit_of_covers hcov]
  exact fitting_of_le _ hfit

theorem emitBody_of_unmapped {pre post : List Byte} {b : Byte} (hin : s.inSize ≤ s.cfgMaxInput.toNat)
    (hx : s.inputBytes = pre ++ b :: post) (hcov : Covers s.code pre) (hb : s.code.at b = none)
    (hfit : (codesOf s.code pre).length ≤ P.bitsCap) :
    emitBody P s = .next ((s.dropBits.withErr b (BitVec.ofNat 32 pre.length)).flag UNKNOWN_SYMBOL) := by
  rw [emitBody, bounded_of_le _ hin]
  simp only [hx, emit_of_unmapped hcov hb]
  exact fitting_of_le _ hfit

end

/-- Settles O23: past the capacity check EMIT writes the codes of a mapped input, and its ratio is a rational floor. -/
theorem emitConcatenatesTheCodes : Obligations.EmitConcatenatesTheCodes := by
  intro s hin hcov hfit
  have hlt : (codesOf s.code s.inputBytes).length < 2 ^ 32 := hfit.trans_lt params_legal.bitsCapHigh
  have hlen : s.clearStatus.emitted.bitsLen.toNat = (codesOf s.code s.inputBytes).length := by
    simpa [State.emitted] using hlt
  have hbits : s.clearStatus.emitted.bits = Mem.replace (codesOf s.code s.inputBytes) s.bitsLen.toNat s.bits := by
    simp [State.emitted]
  refine ⟨s.clearStatus.emitted, emitBody_of_covers (s := s.clearStatus) hin hcov hfit, fun i hi => ?_, hlen,
    hlen.trans (length_codesOf _ _), ?_, ?_, ?_, ?_, fun i hi hold => ?_, ?_⟩
  · rw [hbits, Mem.lookup_replace, if_pos hi, List.getElem?_eq_getElem hi]
  · simp [State.emitted]
  · simp [State.emitted]
  · rw [hlen]
    by_cases h0 : s.inLen = 0#32
    · simp [State.emitted, h0, ratioOf]
    · have hn : 8 * s.inLen.toNat ≠ 0 := fun h => h0 (BitVec.eq_of_toNat_eq (by simpa using h))
      rw [if_neg h0]
      simp [State.emitted, ratioOf_eq_floor hn]
  · simp [State.emitted, EMPTY]
  · rw [hlen] at hi hold
    rw [hbits, Mem.lookup_replace, if_neg (not_lt.mpr hi), if_neg (not_lt.mpr hold)]
  · rw [State.emitted]
    rcases State.flagIf_cases (State.withStats _ _ _ _) (s.clearStatus.inLen == 0#32) EMPTY with e | e <;> rw [e] <;> rfl

/-- Settles O24: EMIT's loop stops at `b`, and the condition it raises there discards the payload alone. -/
theorem emitStopsAtTheFirstUnknownSymbol : Obligations.EmitStopsAtTheFirstUnknownSymbol := by
  intro s pre b post hin hx hcov hb hfit
  have hpos : pre.length < 2 ^ 32 := by
    have hlen := congrArg List.length hx
    have hlt := length_inputBytes_lt s
    rw [List.length_append, List.length_cons] at hlen
    omega
  exact ⟨_, emitBody_of_unmapped (s := s.clearStatus) hin hx hcov hb hfit, BitVec.zero_or, rfl, Nat.mod_eq_of_lt hpos, rfl,
    rfl⟩

/-- Settles O26: STATUS 0 leaves only the outcome in which every byte had a code, of 1 to 255 bits. -/
theorem ratioStaysInRange : Obligations.RatioStaysInRange := by
  intro s t hwf _ h hstatus
  rcases emitBody_cases params s.clearStatus with ⟨-, e⟩ | ⟨-, -, e⟩ | ⟨-, -, sym, pos, -, e⟩ | ⟨-, -, hnone, e⟩ <;>
    cases e.symm.trans h
  · exact absurd (BitVec.zero_or.symm.trans hstatus) (by decide)
  · exact absurd (BitVec.zero_or.symm.trans hstatus) (by decide)
  · have hle : (emit s.clearStatus.code s.clearStatus.inputBytes).bits.length ≤ 255 * s.clearStatus.inputBytes.length :=
      length_emitFrom_le hwf _ 0
    have hge := length_le_length_emitFrom hwf hnone
    rw [length_inputBytes] at hle hge
    rw [State.flagIf_ratioX100, State.withStats_ratioX100, toInt_ofInt_ratioOf hle]
    exact ⟨(ratioOf_bounds hle).1, ratioOf_le hge⟩

end Sys2Proof.Machine
end

section
/-! SUPPORT. The payload of ENCODE is no longer than with any code words of which none begins another, the bytes themselves among
them (44_bitstream_encoder.md R192, R193). -/

namespace Sys2Proof.Machine

/-! ### The weighted length over the bytes of the input -/

/-- Weighing each symbol by its count is summing over the input. -/
theorem weightedLength_count {x : List Byte} (hx : x.length < 2 ^ 32) (len : Byte → Nat) :
    weightedLength (count x) len = (x.map len).sum := by
  have hset : (presentSymbols (count x)).toFinset = x.toFinset := by
    ext b
    rw [List.mem_toFinset, List.mem_toFinset, mem_presentSymbols, count_at_ne_zero_iff hx]
  rw [weightedLength_eq, ← List.sum_toFinset _ (nodup_presentSymbols _), hset, Finset.sum_list_map_count]
  exact Finset.sum_congr rfl fun b _ => by rw [toNat_count_at hx, smul_eq_mul]

/-- The bits of one byte do not begin those of another: a code of 8 bits (00_scope.md R12). -/
theorem not_byteBits_prefix {a b : Byte} (h : a ≠ b) : ¬ byteBits a <+: byteBits b := fun hp => by
  have hbits : unpack [a] = unpack [b] := by simp [hp.eq_of_length rfl]
  exact h (List.singleton_injective ((pack_unpack [a]).symm.trans ((congrArg pack hbits).trans (pack_unpack [b]))))

/-! ### The payload of ENCODE -/

section
variable (s : State)

theorem withTables_code_wf : s.withTables.code.wf = true := (buildTree_spec (count s.inputBytes)).1.walkTable_wf

theorem emit_withTables : emit s.withTables.code s.inputBytes = ⟨codesOf s.withTables.code s.inputBytes, none⟩ :=
  emit_of_covers (covers_withTables s)

/-- Each byte of the input takes at least one bit. -/
theorem inLen_le_length_payload : s.inLen.toNat ≤ (codesOf s.withTables.code s.inputBytes).length := by
  have h := length_le_length_emitFrom (withTables_code_wf s) (congrArg EmitRun.unknown (emit_withTables s))
  rwa [← emit, emit_withTables, length_inputBytes] at h

/-- No code words of which none begins another give the input a shorter payload than its own tree (42_tree_builder.md R158
(a)). -/
theorem length_payload_le {c : Byte → Bits} (hne : ∀ a ∈ s.inputBytes, c a ≠ [])
    (hfree : ∀ a ∈ s.inputBytes, ∀ b ∈ s.inputBytes, a ≠ b → ¬ c a <+: c b) :
    (codesOf s.withTables.code s.inputBytes).length ≤ (s.inputBytes.map fun a => (c a).length).sum := by
  have hx := length_inputBytes_lt s
  have hmem : ∀ {a}, (count s.inputBytes).at a ≠ 0#32 → a ∈ s.inputBytes := (count_at_ne_zero_iff hx).mp
  have hcost := codesCost_buildTree_le ((total_count_le _).trans_lt hx) (fun a ha => hne a (hmem ha))
    fun a b ha hb => hfree a (hmem ha) b (hmem hb)
  calc (codesOf s.withTables.code s.inputBytes).length
      = weightedLength (count s.inputBytes) fun a => (codeOf s.withTables.code a).length := by
        rw [length_codesOf, weightedLength_count hx]
    _ ≤ _ := (weightedLength_tableOf_le _ _).trans hcost
    _ = _ := weightedLength_count hx _

/-- The payload is no longer than the input (R193). -/
theorem length_payload_le_eight_mul : (codesOf s.withTables.code s.inputBytes).length ≤ 8 * s.inLen.toNat := by
  have h := length_payload_le s (c := byteBits) (fun _ _ => List.cons_ne_nil _ _) fun _ _ _ _ => not_byteBits_prefix
  simpa [Nat.mul_comm] using h

/-- With one distinct byte the payload takes one bit a byte (R192). -/
theorem length_payload_of_unique (h : present (count s.inputBytes) = 1) :
    (codesOf s.withTables.code s.inputBytes).length = s.inLen.toNat := by
  have hx := length_inputBytes_lt s
  rw [present_eq_length_presentSymbols, List.length_eq_one_iff] at h
  obtain ⟨b, hb⟩ := h
  have hone : ∀ a ∈ s.inputBytes, a = b := fun a ha => by
    simpa [hb] using mem_presentSymbols.mpr ((count_at_ne_zero_iff hx).mpr ha)
  have hle := length_payload_le s (c := fun _ => [false]) (fun _ _ => List.cons_ne_nil _ _) fun a ha a' ha' hne =>
    absurd ((hone a ha).trans (hone a' ha').symm) hne
  exact le_antisymm (by simpa using hle) (inLen_le_length_payload s)

/-! ### The state ENCODE leaves (R191, R193) -/

theorem encoded_bitsLen : s.encoded.bitsLen.toNat = (codesOf s.withTables.code s.inputBytes).length % 2 ^ 32 := by
  simp [State.encoded, emit_withTables]

theorem encoded_ratioX100 :
    s.encoded.ratioX100.toInt = ratioOf (8 * s.inLen.toNat) (codesOf s.withTables.code s.inputBytes).length := by
  have hle := length_payload_le_eight_mul s
  rw [← toInt_ofInt_ratioOf (hle.trans (Nat.mul_le_mul_right _ (by decide)))]
  simp [State.encoded, emit_withTables]

theorem encoded_unique : s.encoded.unique.toNat = present (count s.inputBytes) := by
  simpa [State.encoded, State.withTables] using toNat_ofNat_present (count s.inputBytes)

/-- Within a legal bound ENCODE always completes (20_memory.md R69). -/
theorem encodeBody_of_le {P : Params} {s : State} (hP : P.Legal) (hs : s.status = 0#8)
    (hin : s.inSize ≤ s.cfgMaxInput.toNat) (hlimit : s.cfgMaxInput.toNat ≤ P.maxInputLimit.toNat) :
    encodeBody P s = .next s.encoded := by
  have hcap : 8 * s.inLen.toNat ≤ P.bitsCap := (Nat.mul_le_mul_left 8 (hin.trans hlimit)).trans hP.bitsCapLow
  rw [encodeBody_eq_fitting P hs hin, emit_withTables]
  exact fitting_of_le _ ((length_payload_le_eight_mul s).trans hcap)

end

/-- Settles O47: Huffman's code of the input is no longer than its bytes, so the payload fits BITS and the ratio is not
negative. -/
theorem encodedPayloadNeverExceedsTheInput : Obligations.EncodedPayloadNeverExceedsTheInput := by
  intro s hin hlimit
  have hle : s.clearStatus.encoded.bitsLen.toNat ≤ 8 * s.inLen.toNat :=
    (encoded_bitsLen _).trans_le ((Nat.mod_le _ _).trans (length_payload_le_eight_mul s.clearStatus))
  refine ⟨_, encodeBody_of_le (s := s.clearStatus) params_legal rfl hin hlimit, hle, fun hunique => ?_, ?_, ?_⟩
  · have hone := (encoded_unique s.clearStatus).symm.trans (congrArg BitVec.toNat hunique)
    apply BitVec.eq_of_toNat_eq
    rw [encoded_bitsLen, length_payload_of_unique _ hone]
    exact Nat.mod_eq_of_lt s.inLen.isLt
  · rw [encoded_ratioX100]
    exact ratioOf_nonneg (length_payload_le_eight_mul _)
  · rw [encoded_ratioX100]
    exact ratioOf_le (inLen_le_length_payload _)

end Sys2Proof.Machine
end

section
/-! SUPPORT. UNKNOWN_SYMBOL, bit 2 of STATUS: only EMIT raises it (44_bitstream_encoder.md R194). -/

namespace Sys2Proof.Machine

section
variable {P : Params} {s t : State}

theorem countBody_unknownBit (h : countBody s = .next t) : t.status.getLsbD 2 = s.status.getLsbD 2 := by
  rcases countBody_cases s with ⟨-, e⟩ | ⟨-, e⟩ <;> cases e.symm.trans h
  · exact State.flagIf_getLsbD true rfl
  · exact State.flagIf_getLsbD _ rfl

theorem buildBody_unknownBit (h : buildBody s = .next t) : t.status.getLsbD 2 = s.status.getLsbD 2 := by
  cases (buildBody_eq s).symm.trans h
  exact State.flagIf_getLsbD _ rfl

theorem walkBody_unknownBit (h : walkBody s = .next t) : t.status.getLsbD 2 = s.status.getLsbD 2 := by
  cases (walkBody_eq s).symm.trans h
  exact State.flagIf_getLsbD _ rfl

theorem emitDecoded_unknownBit {l : List Byte} (h : emitDecoded P l s = .next t) :
    t.status.getLsbD 2 = s.status.getLsbD 2 := by
  rcases emitDecoded_cases P l s with ⟨-, e⟩ | ⟨-, e⟩ <;> cases e.symm.trans h
  exact State.flagIf_getLsbD _ rfl

/-- DECT and DECR, whatever bytes `l` they decode. -/
theorem decode_unknownBit {l : List Byte} (h : bounded s.bitsSize (emitDecoded P l) s = .next t) :
    t.status.getLsbD 2 = s.status.getLsbD 2 := by
  rcases bounded_cases s.bitsSize (emitDecoded P l) s with ⟨-, e⟩ | ⟨-, e⟩
  · cases e.symm.trans h
    exact State.flagIf_getLsbD true rfl
  · exact emitDecoded_unknownBit (e.symm.trans h)

theorem exportBody_unknownBit (h : exportBody P s = .next t) : t.status.getLsbD 2 = s.status.getLsbD 2 := by
  rcases exportBody_cases P s with ⟨-, e⟩ | ⟨-, -, e⟩ | ⟨-, -, e⟩ <;> cases e.symm.trans h
  · exact State.flagIf_getLsbD true rfl
  · exact State.flagIf_getLsbD _ rfl

/-- IMPORT's two flags are DEGRADED and EMPTY. -/
theorem withImported_unknownBit (P : Params) (s : State) :
    (s.withImported P).status.getLsbD 2 = s.status.getLsbD 2 := by
  rw [State.withImported, State.flagIf_getLsbD _ rfl, State.flagIf_getLsbD _ rfl]
  rfl

theorem importBody_unknownBit (h : importBody P s = .next t) : t.status.getLsbD 2 = s.status.getLsbD 2 := by
  rcases importBody_cases P s with ⟨-, e⟩ | ⟨-, -, e⟩ | ⟨-, -, e⟩ <;> cases e.symm.trans h
  · exact State.flagIf_getLsbD true rfl
  · exact withImported_unknownBit P s

/-- ENCODE's EMIT stage never meets an unmapped symbol. -/
theorem encodeBody_unknownBit (hs : s.status = 0#8) (h : encodeBody P s = .next t) :
    t.status.getLsbD 2 = s.status.getLsbD 2 := by
  rcases encodeBody_outcome P hs with ⟨-, e⟩ | ⟨-, -, e⟩ | ⟨-, -, e⟩ <;> cases e.symm.trans h
  · exact State.flagIf_getLsbD true rfl
  · exact State.flagIf_getLsbD _ rfl

theorem unpackBody_unknownBit (hP : P.bitsCap < 2 ^ 32) (hs : s.status = 0#8) (h : unpackBody P s = .next t) :
    t.status.getLsbD 2 = s.status.getLsbD 2 := by
  rcases unpackBody_outcome hP hs with ⟨-, e⟩ | ⟨-, -, e⟩ | ⟨-, -, e⟩
  · cases e.symm.trans h
    exact State.flagIf_getLsbD true rfl
  · cases e.symm.trans h
  · exact (emitDecoded_unknownBit (e.symm.trans h)).trans (withImported_unknownBit P s)

theorem exec_unknownBit {i : Instr} (hi : i ≠ .emit) (h : exec i s = .next t) : t.status.getLsbD 2 = false := by
  have hclear : s.clearStatus.status.getLsbD 2 = false := BitVec.getLsbD_zero
  rw [← hclear]
  cases i with
  | sreset => cases h; rfl
  | count => exact countBody_unknownBit h
  | build => exact buildBody_unknownBit h
  | walk => exact walkBody_unknownBit h
  | emit => exact absurd rfl hi
  | dect => exact decode_unknownBit (s := s.clearStatus) (l := dect s.code s.payload) h
  | decr => exact decode_unknownBit (s := s.clearStatus) (l := decr s.node s.root s.payload) h
  | exportContainer => exact exportBody_unknownBit h
  | importContainer => exact importBody_unknownBit h
  | encode => exact encodeBody_unknownBit rfl h
  | unpack => exact unpackBody_unknownBit params_legal.bitsCapHigh rfl h

end

/-- Settles O48: no command but EMIT has an outcome that sets bit 2, and ERR_SYM and ERR_POS are outside ENCODE's write set. -/
theorem unknownSymbolOnlyFromEmit : Obligations.UnknownSymbolOnlyFromEmit := by
  intro i s t hi h
  refine ⟨exec_unknownBit hi h, ?_⟩
  rintro rfl
  have hframe := (encodeBody_frame (s := s.clearStatus) params_legal.bitsCapHigh rfl h).1
  rw [hframe]
  exact ⟨rfl, rfl⟩

end Sys2Proof.Machine
end

section
/-! SUPPORT. The table-walk: DECT cuts its payload at the first code it meets, and nothing else does (45_bitstream_decoder.md
R202 to R207, R215 to R218). -/

namespace Sys2Proof.Machine

section
variable {t : CodeTable}

/-! ### The inversion of the table (R203) -/

/-- The match is the least symbol with the code. -/
theorem matchCode_eq_some_iff {x : Bits} {s : Byte} :
    matchCode t x = some s ↔ t.at s = some x ∧ ∀ a, t.at a = some x → s.toNat ≤ a.toNat := by
  have hat (i : Nat) (hi : i < 256) : t[i] = t.at (BitVec.ofNat 8 i) := by simp [Table.at, Nat.mod_eq_of_lt hi]
  have hofNat (i : Nat) (hi : i < 256) : (BitVec.ofNat 8 i).toNat = i := Nat.mod_eq_of_lt hi
  rw [matchCode, Option.map_eq_some_iff]
  constructor
  · rintro ⟨i, hi, rfl⟩
    obtain ⟨hlt, heq, hmin⟩ := List.findIdx?_eq_some_iff_getElem.mp hi
    have h256 : i < 256 := by simpa using hlt
    refine ⟨by simpa [hat i h256] using heq, fun a ha => ?_⟩
    rw [hofNat i h256]
    by_contra hai
    exact hmin a.toNat (not_le.mp hai) (by simpa [Table.at] using ha)
  · rintro ⟨hs, hmin⟩
    refine ⟨s.toNat, List.findIdx?_eq_some_iff_getElem.mpr ⟨by simpa using s.toNat_lt, by simpa [Table.at] using hs,
      fun j hj hcode => ?_⟩, by simp⟩
    have hj256 : j < 256 := hj.trans s.toNat_lt
    have hle := hmin (BitVec.ofNat 8 j) (by simpa [hat j hj256] using hcode)
    rw [hofNat j hj256] at hle
    exact absurd hj (not_lt.mpr hle)

theorem matchCode_eq_none_iff {x : Bits} : matchCode t x = none ↔ ∀ a, t.at a ≠ some x := by
  rw [matchCode, Option.map_eq_none_iff, List.findIdx?_eq_none_iff]
  constructor
  · intro h a ha
    have hmem : some x ∈ t.toList := ha ▸ Vector.mem_toList_iff.mpr (Vector.getElem_mem a.toNat_lt)
    simpa using h _ hmem
  · intro h e he
    obtain ⟨i, hi, rfl⟩ := Vector.mem_iff_getElem.mp (Vector.mem_toList_iff.mp he)
    simpa [Table.at, Nat.mod_eq_of_lt hi] using h (BitVec.ofNat 8 i)

theorem dectFrom_cons_of_some {buf : Bits} {b : Bool} {s : Byte} (h : matchCode t (buf ++ [b]) = some s) (bs : Bits) :
    dectFrom t buf (b :: bs) = s :: dect t bs := by rw [dectFrom, h, dect]

theorem dectFrom_cons_of_none {buf : Bits} {b : Bool} (h : matchCode t (buf ++ [b]) = none) (bs : Bits) :
    dectFrom t buf (b :: bs) = dectFrom t (buf ++ [b]) bs := by rw [dectFrom, h]

/-! ### Bits that match nothing, and segments (R204, R205) -/

/-- No non-empty beginning of `x` is a code: DECT consumes `x` without a match. -/
def NoCode (t : CodeTable) (x : Bits) : Prop := ∀ p a, p <+: x → p ≠ [] → t.at a ≠ some p

/-- DECT's first match in bits that begin with `c` is at the end of `c`, and the byte emitted is `s`. -/
def IsSegment (t : CodeTable) (c : Bits) (s : Byte) : Prop :=
  c ≠ [] ∧ t.at s = some c ∧ (∀ a, t.at a = some c → s.toNat ≤ a.toNat) ∧ ∀ p a, p <+: c → p ≠ [] → p ≠ c → t.at a ≠ some p

theorem noCode_nil : NoCode t [] := fun _ _ hp hne => absurd (List.prefix_nil.mp hp) hne

theorem noCode_concat_iff {x : Bits} {b : Bool} : NoCode t (x ++ [b]) ↔ NoCode t x ∧ matchCode t (x ++ [b]) = none := by
  rw [matchCode_eq_none_iff]
  constructor
  · exact fun h => ⟨fun p a hp => h p a (hp.trans (List.prefix_append x [b])),
      fun a => h _ a (List.prefix_refl _) (by simp)⟩
  · rintro ⟨hx, hb⟩ p a hp hne
    rcases List.prefix_concat_iff.mp hp with rfl | hp
    · exact hb a
    · exact hx p a hp hne

theorem isSegment_concat_iff {x : Bits} {b : Bool} {s : Byte} :
    IsSegment t (x ++ [b]) s ↔ NoCode t x ∧ matchCode t (x ++ [b]) = some s := by
  rw [matchCode_eq_some_iff]
  constructor
  · rintro ⟨-, hs, hmin, hshort⟩
    refine ⟨fun p a hp hne => hshort p a (hp.trans (List.prefix_append x [b])) hne ?_, hs, hmin⟩
    rintro rfl
    simpa using hp.length_le
  · rintro ⟨hx, hs, hmin⟩
    refine ⟨by simp, hs, hmin, fun p a hp hne hpc => hx p a ?_ hne⟩
    exact (List.prefix_concat_iff.mp hp).resolve_left hpc

/-- With bits in the accumulator that match nothing, DECT goes on as it does when they stand before the rest. -/
theorem NoCode.dectFrom_eq (bs : Bits) {x : Bits} (h : NoCode t x) : dectFrom t x bs = dect t (x ++ bs) := by
  induction x using List.reverseRecOn generalizing bs with
  | nil => rfl
  | append_singleton x b ih =>
    obtain ⟨hx, hb⟩ := noCode_concat_iff.mp h
    rw [← dectFrom_cons_of_none hb, ih _ hx, List.append_assoc, List.singleton_append]

theorem NoCode.dect_eq_nil {x : Bits} (h : NoCode t x) : dect t x = [] := by
  rw [← List.append_nil x, ← h.dectFrom_eq, dectFrom]

theorem IsSegment.dect_append {c : Bits} {s : Byte} (h : IsSegment t c s) (bs : Bits) :
    dect t (c ++ bs) = s :: dect t bs := by
  obtain ⟨x, b, rfl⟩ := (List.eq_nil_or_concat' c).resolve_left h.1
  obtain ⟨hx, hb⟩ := isSegment_concat_iff.mp h
  rw [List.append_assoc, List.singleton_append, ← hx.dectFrom_eq, dectFrom_cons_of_some hb]

/-- Bits that no code begins with, and that begin with no code, absorb what follows (R205). -/
theorem NoCode.append_of_dead {x : Bits} (h : NoCode t x) (hdead : ∀ a c, t.at a = some c → ¬ x <+: c) (bs : Bits) :
    NoCode t (x ++ bs) := by
  intro p a hp hne hcode
  rcases List.prefix_or_prefix_of_prefix hp (List.prefix_append x bs) with hpx | hxp
  · exact h p a hpx hne hcode
  · exact hdead a p hcode hxp

/-! ### The declarative walk (R202) -/

theorem isTableWalk_of_noCode {x : Bits} (h : NoCode t x) : IsTableWalk t x [] :=
  ⟨[], x, rfl, .nil, h⟩

theorem IsSegment.isTableWalk_append {c bits : Bits} {s : Byte} {l : List Byte} (h : IsSegment t c s)
    (hw : IsTableWalk t bits l) : IsTableWalk t (c ++ bits) (s :: l) := by
  obtain ⟨segs, rest, rfl, hsegs, hrest⟩ := hw
  exact ⟨c :: segs, rest, by simp, .cons h hsegs, hrest⟩

theorem NoCode.isTableWalk_dectFrom : ∀ {bs x : Bits}, NoCode t x → IsTableWalk t (x ++ bs) (dectFrom t x bs)
  | [], x, h => by
    rw [List.append_nil, dectFrom]
    exact isTableWalk_of_noCode h
  | b :: bs, x, h => by
    rw [← List.singleton_append, ← List.append_assoc]
    cases hb : matchCode t (x ++ [b]) with
    | none =>
      rw [List.singleton_append, dectFrom_cons_of_none hb]
      exact (noCode_concat_iff.mpr ⟨h, hb⟩).isTableWalk_dectFrom
    | some s =>
      rw [List.singleton_append, dectFrom_cons_of_some hb]
      exact (isSegment_concat_iff.mpr ⟨h, hb⟩).isTableWalk_append noCode_nil.isTableWalk_dectFrom

/-- DECT's function is the one table-walk of the bits. -/
theorem isTableWalk_iff {bits : Bits} {l : List Byte} : IsTableWalk t bits l ↔ l = dect t bits := by
  constructor
  · rintro ⟨segs, rest, rfl, hsegs, hrest⟩
    induction hsegs with
    | nil => exact (NoCode.dect_eq_nil hrest).symm
    | cons hseg _ ih =>
      rw [List.flatten_cons, List.append_assoc, IsSegment.dect_append hseg, ← ih]
  · rintro rfl
    exact noCode_nil.isTableWalk_dectFrom

/-! ### The accumulator of 255 bits (R206) -/

/-- An accumulator of more than 255 bits never matches again. -/
theorem dectFrom_eq_nil_of_long (ht : t.wf = true) : ∀ {bs buf : Bits}, 255 < buf.length → dectFrom t buf bs = []
  | [], _, _ => rfl
  | b :: bs, buf, h => by
    have hlen : 255 < (buf ++ [b]).length := by simp; omega
    have hb : matchCode t (buf ++ [b]) = none := matchCode_eq_none_iff.mpr fun a ha =>
      absurd (Code.wf_iff.mp (CodeTable.wf_iff.mp ht a _ ha)).2 (not_le.mpr hlen)
    rw [dectFrom_cons_of_none hb, dectFrom_eq_nil_of_long ht hlen]

theorem TableFsm.step_of_dead {m : TableFsm} (h : m.dead = true) (b : Bool) : TableFsm.step t m b = m := by
  rw [TableFsm.step, if_pos h]

theorem TableFsm.foldl_step_of_dead {m : TableFsm} (h : m.dead = true) (bs : Bits) : bs.foldl (TableFsm.step t) m = m := by
  induction bs with
  | nil => rfl
  | cons b bs ih => rw [List.foldl_cons, TableFsm.step_of_dead h, ih]

/-- The bounded FSM emits what DECT's loop emits with the same accumulator, and keeps its bound. -/
theorem TableFsm.foldl_step (ht : t.wf = true) : ∀ (bs buf : Bits) (out : List Byte), buf.length ≤ 255 →
    (bs.foldl (TableFsm.step t) ⟨buf, false, out⟩).out = out ++ dectFrom t buf bs ∧
    (bs.foldl (TableFsm.step t) ⟨buf, false, out⟩).buf.length ≤ 255
  | [], buf, out, h => ⟨(List.append_nil out).symm, h⟩
  | b :: bs, buf, out, h => by
    rw [List.foldl_cons]
    cases hb : matchCode t (buf ++ [b]) with
    | some s =>
      have hstep : TableFsm.step t ⟨buf, false, out⟩ b = ⟨[], false, out ++ [s]⟩ := by simp [TableFsm.step, hb]
      rw [hstep, dectFrom_cons_of_some hb, List.append_cons out s (dect t bs)]
      exact TableFsm.foldl_step ht bs [] (out ++ [s]) (Nat.zero_le _)
    | none =>
      rw [dectFrom_cons_of_none hb]
      by_cases hlen : 255 < (buf ++ [b]).length
      · have hstep : TableFsm.step t ⟨buf, false, out⟩ b = ⟨[], true, out⟩ := by
          simp only [TableFsm.step, hb, if_pos hlen, Bool.false_eq_true, if_false]
        rw [hstep, TableFsm.foldl_step_of_dead rfl, dectFrom_eq_nil_of_long ht hlen]
        exact ⟨(List.append_nil out).symm, Nat.zero_le _⟩
      · have hstep : TableFsm.step t ⟨buf, false, out⟩ b = ⟨buf ++ [b], false, out⟩ := by
          simp only [TableFsm.step, hb, if_neg hlen, Bool.false_eq_true, if_false]
        rw [hstep]
        exact TableFsm.foldl_step ht bs (buf ++ [b]) out (not_lt.mp hlen)

/-! ### Tables of which no code begins another (R215, R217) -/

/-- When no code begins another, every legal code is met at its end, and names its symbol. -/
theorem PrefixFree.isSegment (h : PrefixFree t) (ht : t.wf = true) {c : Code} {s : Byte} (hc : t.at s = some c) :
    IsSegment t c s := by
  have hone {a : Byte} {p : Code} (ha : t.at a = some p) (hp : p <+: c) : a = s := by
    by_contra has
    exact h a s p c has ha hc hp
  refine ⟨?_, hc, fun a ha => (hone ha (List.prefix_refl c)) ▸ le_rfl, fun p a hp _ hpc ha => ?_⟩
  · rintro rfl
    exact absurd (Code.wf_iff.mp (CodeTable.wf_iff.mp ht s [] hc)).1 (by simp)
  · obtain rfl := hone ha hp
    exact hpc (Option.some.inj (ha.symm.trans hc))

/-- A decoder that takes the code of each byte of `x` from the front of its stream takes the codes of `x` from there. -/
theorem decode_codesOf_append {D : Bits → List Byte} {x : List Byte}
    (hD : ∀ s ∈ x, ∀ rest, D (codeOf t s ++ rest) = s :: D rest) (tail : Bits) : D (codesOf t x ++ tail) = x ++ D tail := by
  induction x with
  | nil => rfl
  | cons s x ih =>
    have hs := hD s List.mem_cons_self (codesOf t x ++ tail)
    rw [codesOf, List.flatMap_cons, List.append_assoc]
    exact hs.trans (congrArg (s :: ·) (ih fun a ha => hD a (List.mem_cons_of_mem s ha)))

theorem PrefixFree.dect_codesOf_append (h : PrefixFree t) (ht : t.wf = true) {x : List Byte} (hx : Covers t x) (tail : Bits) :
    dect t (codesOf t x ++ tail) = x ++ dect t tail := by
  refine decode_codesOf_append (fun s hs rest => ?_) tail
  obtain ⟨c, hc⟩ := Option.isSome_iff_exists.mp (hx s hs)
  rw [codeOf, hc, Option.getD_some, (h.isSegment ht hc).dect_append]

/-- One bit decodes to nothing exactly when it is no code (R218). -/
theorem dect_singleton_eq_nil_iff {b : Bool} : dect t [b] = [] ↔ ∀ a, t.at a ≠ some [b] := by
  rw [← matchCode_eq_none_iff, dect, ← List.nil_append [b]]
  cases hb : matchCode t ([] ++ [b]) with
  | none => simp [dectFrom_cons_of_none hb, dectFrom]
  | some s => simp [dectFrom_cons_of_some hb]

end

/-! ### The command (R202) -/

/-- A decode command that passes its capacity check and makes no more bytes than OUT holds writes them to OUT and OUT_LEN. -/
theorem decode_completes {P : Params} {s : State} {l : List Byte} (hP : P.outCap < 2 ^ 32)
    (hin : s.bitsSize ≤ s.cfgMaxInput.toNat) (hfit : l.length ≤ P.outCap) :
    ∃ t, bounded s.clearStatus.bitsSize (emitDecoded P l) s.clearStatus = .next t ∧ Holds t.out l ∧
      t.outLen.toNat = l.length ∧ t.status = (if s.bitsLen = 0#32 then 0x01#8 else 0x00#8) ∧
      (∀ i, l.length ≤ i → s.outLen.toNat ≤ l.length → Mem.lookup i t.out = Mem.lookup i s.out) ∧
      t = { s with status := t.status, out := t.out, outLen := t.outLen } := by
  have hrun : bounded s.clearStatus.bitsSize (emitDecoded P l) s.clearStatus =
      .next ((s.clearStatus.withOut l).flagIf (s.bitsLen == 0#32) EMPTY) :=
    (bounded_of_le (s := s.clearStatus) _ hin).trans (fitting_of_le _ hfit)
  have hlen : ((s.clearStatus.withOut l).flagIf (s.bitsLen == 0#32) EMPTY).outLen.toNat = l.length := by
    simpa using hfit.trans_lt hP
  obtain ⟨hframe, habove⟩ := decode_frame hP hrun
  rw [hlen] at habove
  refine ⟨_, hrun, fun i hi => ?_, hlen, by simp [EMPTY], habove, hframe⟩
  rw [State.flagIf_out, State.withOut_out, Mem.lookup_replace, if_pos hi, List.getElem?_eq_getElem hi]

/-- DECT and DECR within a legal bound answer a next state, whatever bytes `l` they make of the payload, and its length is
that of `l` unless the capacity check failed (R221). -/
theorem decode_of_legal_bound {P : Params} {s : State} {l : List Byte} (hP : P.Legal) (hO : P.outCap < 2 ^ 32)
    (hcfg : s.cfgMaxInput.toNat ≤ P.maxInputLimit.toNat) (hl : l.length ≤ s.bitsLen.toNat) :
    ∃ t, bounded s.clearStatus.bitsSize (emitDecoded P l) s.clearStatus = .next t ∧
      (t.status ≠ 0x08#8 → t.outLen.toNat ≤ s.bitsLen.toNat) := by
  by_cases hin : s.bitsSize ≤ s.cfgMaxInput.toNat
  · have hfit : l.length ≤ P.outCap := by
      have hout := hP.outCap
      simp only [State.bitsSize, ceil8] at hin
      omega
    obtain ⟨t, ht, -, hlen, -⟩ := decode_completes hO hin hfit
    exact ⟨t, ht, fun _ => hlen.trans_le hl⟩
  · exact ⟨_, bounded_of_lt _ (not_le.mp hin), fun h => absurd BitVec.zero_or h⟩

/-- Settles O28: DECT's loop cuts the payload into segments, and a cut is found again by the loop. -/
theorem dectDecodesByTableWalk : Obligations.DectDecodesByTableWalk := by
  intro s hin hcap
  have hfit := ((length_dect_le s.code s.payload).trans_eq (length_payload s)).trans hcap
  obtain ⟨t, ht, hrest⟩ := decode_completes (P := params) (by decide) hin hfit
  exact ⟨t, dect s.code s.payload, ht, isTableWalk_iff.mpr rfl, fun _ => isTableWalk_iff.mp, hrest⟩

/-- Settles O30: dead bits stay dead, and no accumulator of more than 255 bits is a code. -/
theorem boundedAccumulatorIsEnough : Obligations.BoundedAccumulatorIsEnough :=
  ⟨fun _ _ bits _ hpre hdead => (NoCode.append_of_dead hpre hdead bits).dect_eq_nil,
    fun _ ht b => TableFsm.foldl_step ht b [] [] (Nat.zero_le _)⟩

/-- Settles O31: a byte is emitted only when a bit is consumed, and eight times the bound fits into OUT. -/
theorem decodeNeverOutgrowsOut : Obligations.DecodeNeverOutgrowsOut :=
  ⟨length_dect_le, length_decr_le, fun s hcfg =>
    ⟨decode_of_legal_bound params_legal (by decide) hcfg ((length_dect_le s.code _).trans_eq (length_payload s)),
      decode_of_legal_bound params_legal (by decide) hcfg ((length_decr_le s.node s.root _).trans_eq (length_payload s))⟩⟩

/-- Settles O32: EMIT writes segments, so what follows them is decoded on its own. -/
theorem tableWalkInvertsEmit : Obligations.TableWalkInvertsEmit := by
  intro t x hfree ht hx
  rw [emit_of_covers hx]
  have htail := hfree.dect_codesOf_append ht hx
  refine ⟨by simpa [dect, dectFrom] using htail [], htail, ?_⟩
  rw [htail, List.append_right_eq_self, dect_singleton_eq_nil_iff]

end Sys2Proof.Machine
end

section
/-! SUPPORT. The tree-walk, and the two decoders side by side on the tree WALK made the table from (45_bitstream_decoder.md R210
to R220). -/

namespace Sys2Proof.Machine

/-! ### The FSM (R213) -/

/-- The tree-walk FSM emits what DECR's loop emits from the same cursor. -/
theorem TreeFsm.foldl_step_out (N : Arena) (root : NodeIdx) : ∀ (bs : Bits) (m : TreeFsm),
    (bs.foldl (TreeFsm.step N root) m).out = m.out ++ decrFrom N root m.cur bs
  | [], m => (List.append_nil m.out).symm
  | b :: bs, m => by
    rw [List.foldl_cons, TreeFsm.foldl_step_out N root bs, TreeFsm.step, decrFrom]
    generalize (if b then (nodeAt N m.cur).right else (nodeAt N m.cur).left) = ch
    by_cases hch : ch = NIL
    · rw [if_pos hch, if_pos hch]
    · rw [if_neg hch, if_neg hch]
      cases nodeAt N ch with
      | leaf s w => exact (List.append_cons m.out s _).symm
      | free => rfl
      | internal w l r => rfl

/-- Settles O29: the FSM is DECR's loop with the output accumulated. -/
theorem decrDecodesByTreeWalk : Obligations.DecrDecodesByTreeWalk := by
  intro s hin hcap
  have hfit := ((length_decr_le s.node s.root s.payload).trans_eq (length_payload s)).trans hcap
  obtain ⟨t, ht, hrest⟩ := decode_completes (P := params) (by decide) hin hfit
  refine ⟨t, decr s.node s.root s.payload, ht, ?_, hrest⟩
  rw [TreeFsm.foldl_step_out, decr]
  rfl

/-! ### Paths of a tree -/

/-- On the first edge of a path to a leaf the cursor goes to the child, or the leaf's symbol is emitted. -/
theorem decrFrom_cons_of_pathTo {N : Arena} {i : NodeIdx} {b : Bool} {p : Bits} {s : Byte} (h : PathTo N i (b :: p) s)
    (root : NodeIdx) : ∃ ch, PathTo N ch p s ∧ ∀ bs, decrFrom N root i (b :: bs) =
      if p = [] then s :: decrFrom N root root bs else decrFrom N root ch bs := by
  obtain ⟨w, l, r, hi, hch⟩ := pathTo_cons_iff.mp h
  refine ⟨if b then r else l, hch, fun bs => ?_⟩
  simp only [decrFrom, hi, Node.left, Node.right, if_neg (ne_nil_of_used hch.used)]
  cases p with
  | nil =>
    obtain ⟨v, hv⟩ := pathTo_nil_iff.mp hch
    rw [hv, if_pos rfl]
  | cons x p =>
    obtain ⟨v, l', r', hv, -⟩ := pathTo_cons_iff.mp hch
    rw [hv, if_neg (List.cons_ne_nil x p)]

theorem decrFrom_append_of_pathTo {N : Arena} {root : NodeIdx} {s : Byte} : ∀ {p : Bits} {i : NodeIdx}, PathTo N i p s →
    p ≠ [] → ∀ rest, decrFrom N root i (p ++ rest) = s :: decrFrom N root root rest
  | b :: p, i, h, _, rest => by
    obtain ⟨ch, hch, hstep⟩ := decrFrom_cons_of_pathTo h root
    rw [List.cons_append, hstep]
    split
    · next hp => rw [hp, List.nil_append]
    · next hp => exact decrFrom_append_of_pathTo hch hp rest

/-- A stream that ends below the root, on the way to a leaf, emits nothing. -/
theorem decrFrom_eq_nil_of_prefix {N : Arena} {root : NodeIdx} {s : Byte} : ∀ {b p : Bits} {i : NodeIdx}, PathTo N i p s →
    b <+: p → b ≠ p → decrFrom N root i b = []
  | [], _, _, _, _, _ => rfl
  | x :: b, [], _, _, hb, _ => absurd (List.prefix_nil.mp hb) nofun
  | x :: b, y :: p, i, h, hb, hne => by
    obtain ⟨rfl, hbp⟩ := List.cons_prefix_cons.mp hb
    have hne : b ≠ p := fun h => hne (h ▸ rfl)
    obtain ⟨ch, hch, hstep⟩ := decrFrom_cons_of_pathTo h root
    have hp : p ≠ [] := by
      rintro rfl
      exact hne (List.prefix_nil.mp hbp)
    rw [hstep, if_neg hp]
    exact decrFrom_eq_nil_of_prefix hch hbp hne

theorem replicate_prefix_replicate {m d : Nat} (h : m ≤ d) (b : Bool) : List.replicate m b <+: List.replicate d b :=
  List.prefix_replicate_iff.mpr ⟨by simpa using h, by simp⟩

/-- At most one leaf is reached by edges that all carry the same bit. -/
theorem PathTo.eq_of_replicate {N : Arena} {i : NodeIdx} {b : Bool} {d e : Nat} {s a : Byte}
    (hs : PathTo N i (List.replicate d b) s) (ha : PathTo N i (List.replicate e b) a) : a = s := by
  rcases Nat.le_total d e with h | h
  · exact (hs.eq_of_prefix ha (replicate_prefix_replicate h b)).2.symm
  · exact (ha.eq_of_prefix hs (replicate_prefix_replicate h b)).2

/-! ### What the two decoders share -/

/-- `D` decodes the codes of the tree: a path from the root to a leaf at the front of the stream gives the leaf's symbol, and a
stream that ends on the way to a leaf gives nothing. -/
structure PathDecoder (N : Arena) (root : NodeIdx) (D : Bits → List Byte) : Prop where
  path : ∀ {c : Bits} {s : Byte}, PathTo N root c s → ∀ rest, D (c ++ rest) = s :: D rest
  cut : ∀ {c b : Bits} {s : Byte}, PathTo N root c s → b <+: c → b ≠ c → D b = []

section
variable {N : Arena} {root : NodeIdx} (T : TreeWf N root)
include T

/-- The root is no leaf, so no path from it to a leaf is empty (R33). -/
theorem TreeWf.path_ne_nil {c : Bits} {s : Byte} (h : PathTo N root c s) : c ≠ [] := by
  rintro rfl
  obtain ⟨v, hv⟩ := pathTo_nil_iff.mp h
  obtain ⟨w, l, r, hroot⟩ := T.rootInternal (ne_nil_of_used h.used)
  cases hroot.symm.trans hv

theorem TreeWf.pathDecoder_decr : PathDecoder N root (decr N root) where
  path h rest := by
    have hroot := ne_nil_of_used h.used
    simp only [decr, if_neg hroot]
    exact decrFrom_append_of_pathTo h (T.path_ne_nil h) rest
  cut h hb hne := by
    rw [decr, if_neg (ne_nil_of_used h.used)]
    exact decrFrom_eq_nil_of_prefix h hb hne

/-- A code that is cut short begins with no code (R176). -/
theorem TreeWf.noCode_of_prefix {c b : Bits} {s : Byte} (h : PathTo N root c s) (hb : b <+: c) (hne : b ≠ c) :
    NoCode (walkTable N root) b := fun p _ hp _ hcode => by
  obtain ⟨rfl, -⟩ := (T.walkTable_at_eq_some_iff.mp hcode).eq_of_prefix h (hp.trans hb)
  exact hne (hb.eq_of_length (le_antisymm hb.length_le hp.length_le))

theorem TreeWf.pathDecoder_dect : PathDecoder N root (dect (walkTable N root)) where
  path h rest :=
    (T.walkTable_prefixFree.isSegment T.walkTable_wf (T.walkTable_at_eq_some_iff.mpr h)).dect_append rest
  cut h hb hne := (T.noCode_of_prefix h hb hne).dect_eq_nil

end

section
variable {N : Arena} {root : NodeIdx} {D E : Bits → List Byte}

/-- Two decoders of a tree agree on every stream when each stream begins with a code or ends on the way to a leaf. -/
theorem PathDecoder.eq (hD : PathDecoder N root D) (hE : PathDecoder N root E)
    (hcode : ∀ b : Bits, ∃ c s, PathTo N root c s ∧ c ≠ [] ∧ (c <+: b ∨ b <+: c)) (b : Bits) : D b = E b := by
  induction hn : b.length using Nat.strongRecOn generalizing b with
  | ind n ih =>
    obtain ⟨c, s, h, hne, hc⟩ := hcode b
    by_cases hcb : c <+: b
    · obtain ⟨rest, rfl⟩ := hcb
      have hpos := List.length_pos_of_ne_nil hne
      rw [List.length_append] at hn
      rw [hD.path h, hE.path h, ih rest.length (by omega) rest rfl]
    · have hbc := hc.resolve_left hcb
      have hbne : b ≠ c := fun h => hcb (h ▸ List.prefix_refl b)
      rw [hD.cut h hbc hbne, hE.cut h hbc hbne]

/-- A stream of zeros gives the symbol of the all-zero code once for each whole code (R219). -/
theorem PathDecoder.replicate_false (hD : PathDecoder N root D) {d : Nat} {z : Byte} (hd : 0 < d)
    (h : PathTo N root (List.replicate d false) z) (m : Nat) :
    D (List.replicate m false) = List.replicate (m / d) z := by
  induction m using Nat.strongRecOn with
  | ind m ih =>
    by_cases hm : m < d
    · rw [Nat.div_eq_of_lt hm]
      exact hD.cut h (replicate_prefix_replicate hm.le false) fun h => hm.ne (List.replicate_left_inj.mp h)
    · obtain ⟨k, rfl⟩ := Nat.exists_eq_add_of_le (not_lt.mp hm)
      rw [List.replicate_add, hD.path h, ih k (by omega), Nat.add_div_left _ hd, List.replicate_succ]

end

section
variable {N : Arena} {root : NodeIdx} (T : TreeWf N root)
include T

/-- Every stream over a full tree begins with a code or is the beginning of one (R176). -/
theorem TreeWf.exists_code_of_full (hroot : root ≠ NIL) (hfull : FullTree N) (b : Bits) :
    ∃ c s, PathTo N root c s ∧ c ≠ [] ∧ (c <+: b ∨ b <+: c) := by
  obtain ⟨c, s, hc, hcf⟩ := T.exists_pathTo_along (fun k => b.getD k false) root.isLt (T.used_root hroot)
    fun j w l r _ h _ => hfull j w l r h
  have hbf : ∀ k : Nat, k < b.length → b[k]? = some (b.getD k false) := fun k hk => by simp [hk]
  refine ⟨c, s, hc, T.path_ne_nil hc, ?_⟩
  exact (Nat.le_total c.length b.length).imp (prefix_of_along hcf hbf) (prefix_of_along hbf hcf)

/-- The leaf that the left edges lead to (R219). -/
theorem TreeWf.exists_allZero (hroot : root ≠ NIL) : ∃ z d, 0 < d ∧ PathTo N root (List.replicate d false) z := by
  obtain ⟨q, z, hq, hqf⟩ := T.exists_pathTo_along (fun _ => false) root.isLt (T.used_root hroot) fun _ _ _ _ _ _ => nofun
  have hzero : q = List.replicate q.length false := List.eq_replicate_iff.mpr ⟨rfl, fun b hb => by
    obtain ⟨k, hk, rfl⟩ := List.mem_iff_getElem.mp hb
    simpa [hk] using hqf k hk⟩
  exact ⟨z, q.length, List.length_pos_of_ne_nil (T.path_ne_nil hq), hzero ▸ hq⟩

/-! ### The tree of one symbol (R220) -/

theorem TreeWf.decr_of_not_full (hfull : ¬ FullTree N) {z : Byte} (hz : PathTo N root [false] z) (b : Bits) :
    decr N root b = List.replicate (b.count false) z := by
  induction b with
  | nil => exact T.pathDecoder_decr.cut hz List.nil_prefix nofun
  | cons x b ih =>
    cases x with
    | false =>
      rw [← List.singleton_append, T.pathDecoder_decr.path hz, ih, List.singleton_append, List.count_cons_self,
        List.replicate_succ]
    | true =>
      obtain ⟨w, l, s, v, hroot, -⟩ := T.one_leaf_of_not_full hfull
      have hdeadEnd : decr N root (true :: b) = decr N root b := by
        simp [decr, decrFrom, hroot, Node.right]
      rw [hdeadEnd, ih, List.count_cons_of_ne (by decide)]

theorem TreeWf.dect_of_not_full (hfull : ¬ FullTree N) {z : Byte} (hz : PathTo N root [false] z) (b : Bits) :
    dect (walkTable N root) b = List.replicate (b.takeWhile (· == false)).length z := by
  induction b with
  | nil => exact T.pathDecoder_dect.cut hz List.nil_prefix nofun
  | cons x b ih =>
    cases x with
    | false =>
      rw [← List.singleton_append, T.pathDecoder_dect.path hz, ih]
      rfl
    | true =>
      obtain ⟨s, hs⟩ := T.exists_pathTo_iff_of_not_full hfull
      have hnone : NoCode (walkTable N root) (true :: b) := fun p a hp _ h => by
        obtain ⟨rfl, -⟩ := (hs p a).mp (T.walkTable_at_eq_some_iff.mp h)
        simp at hp
      exact hnone.dect_eq_nil

end

theorem noFalseAfterTrue_iff_pairwise {b : Bits} :
    (∀ i j : Nat, i < j → b[i]? = some true → b[j]? ≠ some false) ↔ b.Pairwise fun x y => x = true → y ≠ false := by
  rw [List.pairwise_iff_getElem]
  constructor
  · exact fun h i j hi hj hij hx hy =>
      h i j hij (List.getElem?_eq_some_iff.mpr ⟨hi, hx⟩) (List.getElem?_eq_some_iff.mpr ⟨hj, hy⟩)
  · intro h i j hij hx hy
    obtain ⟨hi, hx⟩ := List.getElem?_eq_some_iff.mp hx
    obtain ⟨hj, hy⟩ := List.getElem?_eq_some_iff.mp hy
    exact h i j hi hj hij hx hy

/-- The zeros before the first one are all the zeros exactly when no zero follows a one. -/
theorem length_takeWhile_eq_count_iff {b : Bits} : (b.takeWhile (· == false)).length = b.count false ↔
    b.Pairwise fun x y => x = true → y ≠ false := by
  induction b with
  | nil => simp
  | cons x b ih =>
    rw [List.pairwise_cons]
    cases x with
    | false =>
      rw [List.takeWhile_cons_of_pos rfl, List.length_cons, List.count_cons_self, Nat.succ_inj, ih]
      exact (and_iff_right fun _ _ => nofun).symm
    | true =>
      rw [List.takeWhile_cons_of_neg (by decide), List.length_nil, List.count_cons_of_ne (by decide), eq_comm,
        List.count_eq_zero]
      constructor
      · intro hnone
        have hne : ∀ y ∈ b, y ≠ false := fun y hy h => hnone (h ▸ hy)
        exact ⟨fun y hy _ => hne y hy, List.pairwise_of_forall_mem_list fun _ _ y hy _ => hne y hy⟩
      · exact fun h hmem => h.1 false hmem rfl rfl

/-- Settles O33: the codes of the table are the paths of the tree. -/
theorem treeWalkInvertsEmit : Obligations.TreeWalkInvertsEmit := by
  intro N root x T hx
  have hcov : Covers (walkTable N root) x := fun b hb => T.walkTable_at_isSome_iff.mpr (hx b hb)
  have htail : ∀ tail, decr N root (codesOf (walkTable N root) x ++ tail) = x ++ decr N root tail :=
    decode_codesOf_append fun s hs rest => by
      obtain ⟨c, hc⟩ := Option.isSome_iff_exists.mp (hcov s hs)
      rw [codeOf, hc]
      exact T.pathDecoder_decr.path (T.walkTable_at_eq_some_iff.mp hc) rest
  rw [emit_of_covers hcov]
  exact ⟨by simpa [decr, decrFrom] using htail [], htail⟩

/-- Settles O34: both decoders take codes from the front of the stream; they part only on the dead end of the one-symbol
tree. -/
theorem decodeStrategiesAgree : Obligations.DecodeStrategiesAgree := by
  intro N root T
  refine ⟨?_, fun hroot hfull => T.pathDecoder_dect.eq T.pathDecoder_decr (T.exists_code_of_full hroot hfull),
    fun hfull => ?_⟩
  · rintro rfl b
    refine ⟨NoCode.dect_eq_nil fun p a _ _ => ?_, if_pos rfl⟩
    rw [walkTable_nil, emptyTable, Table.at_replicate]
    nofun
  · obtain ⟨z, hz⟩ := T.exists_pathTo_iff_of_not_full hfull
    have hz : PathTo N root [false] z := (hz _ _).mpr ⟨rfl, rfl⟩
    refine ⟨z, fun b => ⟨T.decr_of_not_full hfull hz b, T.dect_of_not_full hfull hz b, ?_⟩⟩
    rw [T.decr_of_not_full hfull hz, T.dect_of_not_full hfull hz, List.replicate_left_inj, length_takeWhile_eq_count_iff,
      noFalseAfterTrue_iff_pairwise]

/-- Settles O35: the left edges lead to the one leaf whose code zeros make up. -/
theorem padBitsDecodeToTheAllZeroSymbol : Obligations.PadBitsDecodeToTheAllZeroSymbol := by
  intro N root T hroot
  obtain ⟨z, d, hd, hz⟩ := T.exists_allZero hroot
  refine ⟨z, d, hd, T.walkTable_at_eq_some_iff.mpr hz,
    fun a e h => hz.eq_of_replicate (T.walkTable_at_eq_some_iff.mp h), fun m => ?_⟩
  have hdect := T.pathDecoder_dect.replicate_false hd hz m
  refine ⟨hdect, T.pathDecoder_decr.replicate_false hd hz m, ?_⟩
  rw [hdect, List.replicate_eq_nil_iff, Nat.div_eq_zero_iff_lt hd]

end Sys2Proof.Machine
end

section
/-! SUPPORT. The default table block is canonical (46_container_codec.md R232 (f), R235): a block that parses is the block of
the table it parses to. -/

namespace Sys2Proof

/-- The entries from a symbol on begin with the entry of that symbol. -/
theorem Table.drop_toList {α : Type} (t : Table α) (b : Byte) :
    t.toList.drop b.toNat = t.at b :: t.toList.drop (b.toNat + 1) :=
  List.drop_eq_getElem_cons (by simpa using b.toNat_lt)

namespace Machine

/-- The entries of the symbols from `lo` on are `k` entries, whose bytes in a block are `B` (R233, R234). -/
def BlockFrom (t : CodeTable) (lo k : Nat) (B : List Byte) : Prop :=
  (t.toList.drop lo).countP Option.isSome = k ∧ serEntries lo (t.toList.drop lo) = B

section
variable {t u : CodeTable} {lo k : Nat} {b : Byte} {B : List Byte}

theorem tblSer_eq_of_blockFrom (h : BlockFrom t 0 k B) : tblSer t = [0x01#8] ++ le16 k ++ B := by
  obtain ⟨rfl, rfl⟩ := h
  rfl

theorem blockFrom_256 (t : CodeTable) : BlockFrom t 256 0 [] := by
  have hd : t.toList.drop 256 = [] := List.drop_eq_nil_of_le (by simp)
  rw [BlockFrom, hd]
  exact ⟨rfl, rfl⟩

theorem BlockFrom.of_absent (hb : t.at b = none) (h : BlockFrom t (b.toNat + 1) k B) : BlockFrom t b.toNat k B := by
  rw [BlockFrom, t.drop_toList b, hb]
  exact h

theorem BlockFrom.of_present {c : Code} (hb : t.at b = some c) (h : BlockFrom t (b.toNat + 1) k B) :
    BlockFrom t b.toNat (k + 1) ([b, BitVec.ofNat 8 c.length] ++ pack c ++ B) := by
  obtain ⟨rfl, rfl⟩ := h
  rw [BlockFrom, t.drop_toList b, hb]
  exact ⟨List.countP_cons_of_pos rfl, by simp [serEntries]⟩

/-- Symbols without a code leave no trace in a block. -/
theorem BlockFrom.of_absent_below {n : Nat} (hlo : lo ≤ n) : n ≤ 256 →
    (∀ a : Byte, lo ≤ a.toNat → a.toNat < n → t.at a = none) → BlockFrom t n k B → BlockFrom t lo k B := by
  induction n, hlo using Nat.le_induction with
  | base => exact fun _ _ h => h
  | succ n hle ih =>
    intro hn habs h
    have ha : (BitVec.ofNat 8 n).toNat = n := Nat.mod_eq_of_lt hn
    refine ih (Nat.le_of_succ_le hn) (fun a h1 h2 => habs a h1 (Nat.lt_succ_of_lt h2)) ?_
    rw [← ha] at h ⊢
    exact .of_absent (habs _ (ha.symm ▸ hle) (ha.symm ▸ Nat.lt_succ_self n)) h

/-- The parser leaves the entries below its next symbol as they are. -/
theorem parEntries_at_of_lt : ∀ {k lo : Nat} {t : CodeTable} {B : List Byte}, parEntries k lo t B = some u →
    ∀ a : Byte, a.toNat < lo → u.at a = t.at a
  | 0, _, t, B, h, a, _ => by
    simp only [parEntries] at h
    split_ifs at h
    exact Option.some.inj h ▸ rfl
  | k + 1, _, t, B, h, a, ha => by
    obtain ⟨b, c, rest, -, hlo, -, hrest⟩ := parEntries_succ_eq_some_iff.mp h
    rw [parEntries_at_of_lt hrest a (by omega), Table.at_put_ne]
    rintro rfl
    omega

/-- The parser that has built nothing from `lo` on reads exactly the entries from `lo` on of the table it answers. -/
theorem blockFrom_of_parEntries : ∀ {k lo : Nat} {t : CodeTable} {B : List Byte}, lo ≤ 256 →
    (∀ a : Byte, lo ≤ a.toNat → t.at a = none) → parEntries k lo t B = some u → BlockFrom u lo k B
  | 0, lo, t, B, hlo, habs, h => by
    simp only [parEntries] at h
    split_ifs at h with hB
    rw [List.isEmpty_iff.mp hB, ← Option.some.inj h]
    exact .of_absent_below hlo (Nat.le_refl 256) (fun a ha _ => habs a ha) (blockFrom_256 t)
  | k + 1, lo, t, B, hlo, habs, h => by
    obtain ⟨b, c, rest, rfl, hb, -, hrest⟩ := parEntries_succ_eq_some_iff.mp h
    have hbelow : ∀ a : Byte, a.toNat < b.toNat + 1 → u.at a = if b = a then some c else t.at a := fun a ha => by
      rw [parEntries_at_of_lt hrest a ha, Table.at_put]
    have hfrom : ∀ a : Byte, b.toNat + 1 ≤ a.toNat → (t.put b (some c)).at a = none := fun a ha => by
      rw [Table.at_put_ne t (some c) (by rintro rfl; omega), habs a (by omega)]
    have ih : BlockFrom u (b.toNat + 1) k rest := blockFrom_of_parEntries b.toNat_lt hfrom hrest
    refine .of_absent_below hb b.toNat_lt.le (fun a h1 h2 => ?_) (.of_present ((hbelow b (by omega)).trans (if_pos rfl)) ih)
    rw [hbelow a (by omega), if_neg (by rintro rfl; omega), habs a h1]

end

/-- What the parser accepts is the block of the table it answers (R232 (f)). -/
theorem tblSer_of_tblPar {B : List Byte} {t : CodeTable} (h : tblPar B = some t) : tblSer t = B := by
  obtain ⟨k, rest, rfl, -, hrest⟩ := tblPar_eq_some_iff.mp h
  exact tblSer_eq_of_blockFrom (blockFrom_of_parEntries (Nat.zero_le 256) (fun a _ => by simp [emptyTable]) hrest)

/-- Settles O36: the parser reads each entry the serialiser wrote back. -/
theorem tableBlockRoundTrip : Obligations.TableBlockRoundTrip := fun _ => tblPar_tblSer

/-- Settles O37: the parser takes the entries in rising order of symbol, as the serialiser writes them. -/
theorem tableBlockIsCanonical : Obligations.TableBlockIsCanonical := fun _ _ h => ⟨tblSer_of_tblPar h, tblPar_wf h⟩

end Machine
end Sys2Proof
end

section
/-! SUPPORT. The layout of a container, its parse, and the per-byte steps of EXPORT and IMPORT (46_container_codec.md R228, R245,
R250). -/

namespace Sys2Proof.Machine

/-! ### Little-endian fields (00_scope.md R13) -/

theorem unle_concat (b : Byte) : ∀ B : List Byte, unle (B ++ [b]) = unle B + b.toNat * 2 ^ (8 * B.length)
  | [] => by simp [unle]
  | a :: B => by
    rw [List.cons_append, unle, unle_concat b B, unle, List.length_cons, Nat.mul_succ, Nat.pow_add]
    ring

theorem le32_unle {B : List Byte} (h : B.length = 4) : le32 (unle B) = B := by
  obtain ⟨a, b, c, d, rfl⟩ := List.length_eq_four.mp h
  have ha := a.isLt
  have hb := b.isLt
  have hc := c.isLt
  have hd := d.isLt
  simp only [le32, unle, List.cons.injEq, and_true]
  refine ⟨?_, ?_, ?_, ?_⟩ <;> apply BitVec.eq_of_toNat_eq <;> simp only [BitVec.toNat_ofNat] <;> omega

theorem getElem?_le32 (v : Nat) {i : Nat} (h : i < 4) : (le32 v)[i]? = some (BitVec.ofNat 8 (v / 256 ^ i)) := by
  match i, h with
  | 0, _ => simp [le32]
  | 1, _ | 2, _ | 3, _ => rfl

/-! ### The layout (R228) -/

section
variable {P : Params} (t : CodeTable) (b : Bits) {i : Nat}

theorem getElem?_container_tag (hm : P.magic.length = 4) (h : i < 4) : (container P t b)[i]? = P.magic[i]? := by
  simp only [container, List.append_assoc]
  exact List.getElem?_append_left (hm.symm ▸ h)

theorem getElem?_container_lengthField (hm : P.magic.length = 4) (h : i < 4) :
    (container P t b)[4 + i]? = (le32 (P.tbl.ser t).length)[i]? := by
  simp only [container, List.append_assoc]
  rw [← hm, List.getElem?_append_right (Nat.le_add_right _ _), Nat.add_sub_cancel_left]
  exact List.getElem?_append_left h

theorem getElem?_container_table (hm : P.magic.length = 4) (h : i < (P.tbl.ser t).length) :
    (container P t b)[8 + i]? = (P.tbl.ser t)[i]? := by
  have hl : (P.magic ++ le32 (P.tbl.ser t).length).length = 8 := by simp [hm]
  rw [container, List.append_assoc _ _ (pack b), ← hl, List.getElem?_append_right (Nat.le_add_right _ _),
    Nat.add_sub_cancel_left]
  exact List.getElem?_append_left h

theorem getElem?_container_payload (hm : P.magic.length = 4) (i : Nat) :
    (container P t b)[8 + (P.tbl.ser t).length + i]? = (pack b)[i]? := by
  have hl : (P.magic ++ le32 (P.tbl.ser t).length ++ P.tbl.ser t).length = 8 + (P.tbl.ser t).length := by
    simp [hm, ← Nat.add_assoc]
  rw [container, ← hl, List.getElem?_append_right (Nat.le_add_right _ _), Nat.add_sub_cancel_left]

end

theorem length_container_of_magic {P : Params} (hm : P.magic.length = 4) (t : CodeTable) (b : Bits) :
    (container P t b).length = 8 + (P.tbl.ser t).length + ceil8 b.length := by
  rw [length_container, hm]

theorem getElem?_pack {b : Bits} {j : Nat} (h : j < ceil8 b.length) : (pack b)[j]? = some (packByte b j) := by
  simp [pack, h]

/-! ### EXPORT byte by byte (R250) -/

/-- EXPORT's byte at an index is the container's. -/
theorem getElem?_container {P : Params} (hm : P.magic.length = 4) (t : CodeTable) (b : Bits) {i : Nat}
    (h : i < 8 + (P.tbl.ser t).length + ceil8 b.length) : (container P t b)[i]? = some (exportByte P t b i) := by
  unfold exportByte CodecPhase.at
  by_cases h4 : i < 4
  · rw [if_pos h4, getElem?_container_tag t b hm h4, List.getD_eq_getElem?_getD, List.getElem?_eq_getElem (hm.symm ▸ h4)]
    rfl
  by_cases h8 : i < 8
  · obtain ⟨j, rfl⟩ := Nat.exists_eq_add_of_le (not_lt.mp h4)
    have hj : j < 4 := by omega
    rw [if_neg h4, if_pos h8, getElem?_container_lengthField t b hm hj, getElem?_le32 _ hj]
    simp only [Nat.add_sub_cancel_left, List.getD_eq_getElem?_getD, getElem?_le32 _ hj, Option.getD_some]
  obtain ⟨j, rfl⟩ := Nat.exists_eq_add_of_le (not_lt.mp h8)
  by_cases hl : 8 + j < 8 + (P.tbl.ser t).length
  · have hj : j < (P.tbl.ser t).length := by omega
    rw [if_neg h4, if_neg h8, if_pos hl, getElem?_container_table t b hm hj]
    simp [hj]
  · obtain ⟨k, hk⟩ := Nat.exists_eq_add_of_le (not_lt.mp hl)
    rw [if_neg h4, if_neg h8, if_neg hl, hk, getElem?_container_payload t b hm, getElem?_pack (by omega)]
    simp [Nat.add_assoc]

/-- After `n` steps EXPORT has written the first `n` bytes of the container. -/
theorem ExportFsm.iterate_step {P : Params} (hm : P.magic.length = 4) (t : CodeTable) (b : Bits) :
    ∀ {n : Nat}, n ≤ 8 + (P.tbl.ser t).length + ceil8 b.length →
      (ExportFsm.step P t b)^[n] ExportFsm.start = ⟨n, (container P t b).take n⟩
  | 0, _ => rfl
  | n + 1, h => by
    rw [Function.iterate_succ_apply', ExportFsm.iterate_step hm t b (Nat.le_of_succ_le h), List.take_add_one,
      getElem?_container hm t b h]
    exact if_pos h

/-! ### The parse (R245, R247) -/

/-- The length field of a blob, L (R228). -/
def blobTableLength (blob : List Byte) : Nat := unle ((blob.drop 4).take 4)

/-- The bytes of a blob that its length field covers. -/
def blobTable (blob : List Byte) : List Byte := (blob.drop 8).take (blobTableLength blob)

/-- The bits of the bytes after the table block. -/
def blobPayload (blob : List Byte) : Bits := unpack (blob.drop (8 + blobTableLength blob))

/-- The tag and the length field are there and the length field does not overrun the blob: all of a container but its table
block (R247). -/
def Framed (P : Params) (blob : List Byte) : Prop :=
  8 ≤ blob.length ∧ blob.take 4 = P.magic ∧ 8 + blobTableLength blob ≤ blob.length

theorem parseContainer_of_framed {P : Params} {blob : List Byte} (h : Framed P blob) :
    parseContainer P blob = (P.tbl.par (blobTable blob)).map fun t => (t, blobPayload blob) := by
  obtain ⟨h8, hmagic, hlen⟩ := h
  rw [parseContainer, if_neg (not_lt.mpr h8), if_neg (not_not.mpr hmagic)]
  refine (if_neg (not_lt.mpr hlen)).trans ?_
  unfold blobTable blobTableLength
  cases P.tbl.par ((blob.drop 8).take (unle ((blob.drop 4).take 4))) <;> rfl

theorem parseContainer_of_not_framed {P : Params} {blob : List Byte} (h : ¬ Framed P blob) :
    parseContainer P blob = none := by
  unfold parseContainer
  by_cases h8 : blob.length < 8
  · exact if_pos h8
  by_cases hmagic : blob.take 4 = P.magic
  · have hlen : blob.length < 8 + blobTableLength blob := by
      by_contra hlen
      exact h ⟨not_lt.mp h8, hmagic, not_lt.mp hlen⟩
    rw [if_neg h8, if_neg (not_not.mpr hmagic)]
    exact if_pos hlen
  · rw [if_neg h8, if_pos hmagic]

/-! ### IMPORT byte by byte (R250) -/

/-- The tag matches as far as it has been read. -/
def tagSoFar (m B : List Byte) : Bool := B.take 4 == m.take B.length

/-- IMPORT's per-item state when it has read the bytes `B`. -/
def ImportFsm.after (P : Params) (B : List Byte) : ImportFsm :=
  ⟨B.length, tagSoFar P.magic B, blobTableLength B, blobTable B, blobPayload B⟩

section
variable {P : Params} {B : List Byte} (b : Byte)

theorem blobTableLength_of_length_le (h : B.length ≤ 4) : blobTableLength B = 0 := by
  rw [blobTableLength, List.drop_eq_nil_of_le h]
  rfl

theorem blobTable_of_length_le (h : B.length ≤ 8) : blobTable B = [] := by
  rw [blobTable, List.drop_eq_nil_of_le h, List.take_nil]

theorem blobPayload_of_length_le (h : B.length ≤ 8 + blobTableLength B) : blobPayload B = [] := by
  rw [blobPayload, List.drop_eq_nil_of_le h, unpack_nil]

/-- A byte at index 4 to 7 is the next byte of the length field. -/
theorem blobTableLength_concat (h4 : 4 ≤ B.length) (h8 : B.length < 8) :
    blobTableLength (B ++ [b]) = blobTableLength B + b.toNat * 2 ^ (8 * (B.length - 4)) := by
  have hle : (B.drop 4).length ≤ 4 ∧ (B.drop 4 ++ [b]).length ≤ 4 := by simp; omega
  rw [blobTableLength, List.drop_append_of_le_length h4, List.take_of_length_le hle.2, unle_concat, blobTableLength,
    List.take_of_length_le hle.1, List.length_drop]

theorem blobTableLength_concat_of_le (h8 : 8 ≤ B.length) : blobTableLength (B ++ [b]) = blobTableLength B := by
  rw [blobTableLength, List.drop_append_of_le_length (by omega), List.take_append_of_le_length (by simp; omega),
    blobTableLength]

/-- A byte that the length field covers is the next byte of the table block. -/
theorem blobTable_concat (h8 : 8 ≤ B.length) (h : B.length < 8 + blobTableLength B) :
    blobTable (B ++ [b]) = blobTable B ++ [b] := by
  have hle : (B.drop 8).length ≤ blobTableLength B ∧ (B.drop 8 ++ [b]).length ≤ blobTableLength B := by simp; omega
  rw [blobTable, blobTableLength_concat_of_le b h8, List.drop_append_of_le_length h8, List.take_of_length_le hle.2,
    blobTable, List.take_of_length_le hle.1]

theorem blobTable_concat_of_le (h : 8 + blobTableLength B ≤ B.length) : blobTable (B ++ [b]) = blobTable B := by
  rw [blobTable, blobTableLength_concat_of_le b (by omega), List.drop_append_of_le_length (by omega),
    List.take_append_of_le_length (by simp; omega), blobTable]

/-- A byte behind the table block gives eight bits of the payload. -/
theorem blobPayload_concat (h : 8 + blobTableLength B ≤ B.length) :
    blobPayload (B ++ [b]) = blobPayload B ++ byteBits b := by
  rw [blobPayload, blobTableLength_concat_of_le b (by omega), List.drop_append_of_le_length h, unpack_append,
    unpack_cons, unpack_nil, List.append_nil, blobPayload]

theorem tagSoFar_concat {m : List Byte} (hm : m.length = 4) (h4 : B.length < 4) :
    tagSoFar m (B ++ [b]) = (tagSoFar m B && m[B.length]? == some b) := by
  have hlen : (B ++ [b]).length = B.length + 1 := List.length_append
  rw [tagSoFar, tagSoFar, List.take_of_length_le (l := B) h4.le, List.take_of_length_le (l := B ++ [b]) (by omega), hlen,
    List.take_add_one, List.getElem?_eq_getElem (by omega), Option.toList_some, Bool.eq_iff_iff]
  simp only [Bool.and_eq_true, beq_iff_eq, List.append_singleton_inj, Option.some_inj, eq_comm (a := b)]

theorem tagSoFar_of_le {m : List Byte} (hm : m.length = 4) (h4 : 4 ≤ B.length) : tagSoFar m B = (B.take 4 == m) := by
  rw [tagSoFar, List.take_of_length_le (hm.trans_le h4)]

theorem tagSoFar_concat_of_le {m : List Byte} (hm : m.length = 4) (h4 : 4 ≤ B.length) :
    tagSoFar m (B ++ [b]) = tagSoFar m B := by
  have hlen : (B ++ [b]).length = B.length + 1 := List.length_append
  rw [tagSoFar_of_le hm (by omega), tagSoFar_of_le hm h4, List.take_append_of_le_length h4]

/-- IMPORT's step on the next byte is what it has read with that byte, in each of the four phases. -/
theorem ImportFsm.step_after (hm : P.magic.length = 4) :
    ImportFsm.step P (ImportFsm.after P B) b = ImportFsm.after P (B ++ [b]) := by
  have hlen : (B ++ [b]).length = B.length + 1 := List.length_append
  by_cases h4 : B.length < 4
  · have hL := blobTableLength_of_length_le (B := B) (by omega)
    have hL' := blobTableLength_of_length_le (B := B ++ [b]) (by omega)
    refine (if_pos h4).trans ?_
    simp only [ImportFsm.after, hlen, tagSoFar_concat b hm h4, hL, hL', blobTable_of_length_le (B := B) (by omega),
      blobTable_of_length_le (B := B ++ [b]) (by omega), blobPayload_of_length_le (B := B) (by omega),
      blobPayload_of_length_le (B := B ++ [b]) (by omega)]
  have htag := tagSoFar_concat_of_le b hm (not_lt.mp h4)
  refine (if_neg h4).trans ?_
  by_cases h8 : B.length < 8
  · refine (if_pos h8).trans ?_
    simp only [ImportFsm.after, hlen, htag, blobTableLength_concat b (not_lt.mp h4) h8,
      blobTable_of_length_le (B := B) (by omega), blobTable_of_length_le (B := B ++ [b]) (by omega),
      blobPayload_of_length_le (B := B) (by omega), blobPayload_of_length_le (B := B ++ [b]) (by omega)]
  have hL := blobTableLength_concat_of_le b (not_lt.mp h8)
  refine (if_neg h8).trans ?_
  by_cases hl : B.length < 8 + blobTableLength B
  · refine (if_pos hl).trans ?_
    simp only [ImportFsm.after, hlen, htag, hL, blobTable_concat b (not_lt.mp h8) hl,
      blobPayload_of_length_le (B := B) (by omega), blobPayload_of_length_le (B := B ++ [b]) (by omega)]
  · refine (if_neg hl).trans ?_
    simp only [ImportFsm.after, hlen, htag, hL, blobTable_concat_of_le b (not_lt.mp hl),
      blobPayload_concat b (not_lt.mp hl)]

/-- What IMPORT has read at the end of the blob gives its parse. -/
theorem ImportFsm.result_after (hm : P.magic.length = 4) : (ImportFsm.after P B).result P = parseContainer P B := by
  unfold parseContainer
  by_cases h8 : B.length < 8
  · exact (if_pos h8).trans (if_pos h8).symm
  have htag : (!(ImportFsm.after P B).magicOk) = true ↔ B.take 4 ≠ P.magic := by
    simp [ImportFsm.after, tagSoFar_of_le hm (B := B) (by omega)]
  rw [if_neg h8]
  refine (if_neg h8).trans (if_congr htag rfl (if_congr Iff.rfl rfl ?_))
  unfold ImportFsm.after blobTable blobTableLength
  cases P.tbl.par ((B.drop 8).take (unle ((B.drop 4).take 4))) <;> rfl

theorem ImportFsm.foldl_step (hm : P.magic.length = 4) (blob : List Byte) :
    blob.foldl (ImportFsm.step P) ImportFsm.start = ImportFsm.after P blob := by
  induction blob using List.reverseRecOn with
  | nil => simp [ImportFsm.start, ImportFsm.after, tagSoFar, blobTable, blobPayload, blobTableLength, unle]
  | append_singleton B b ih => rw [List.foldl_concat, ih, ImportFsm.step_after b hm]

end

/-- Settles O43: after each step EXPORT has written the container, and IMPORT has read the blob, up to its index. -/
theorem codecPerItemStepsAgree : Obligations.CodecPerItemStepsAgree := by
  refine fun P hm => ⟨fun t b => ?_, fun blob => ?_⟩
  · rw [ExportFsm.iterate_step hm t b (Nat.le_refl _), ← length_container_of_magic hm, List.take_length]
  · rw [ImportFsm.foldl_step hm, ImportFsm.result_after hm]

end Sys2Proof.Machine
end

section
/-! SUPPORT. EXPORT and IMPORT as commands: each completes, and each undoes the other (46_container_codec.md R240, R245 to
R248). -/

namespace Sys2Proof.Machine

theorem holds_replace {α : Type} (l : List α) (old : Nat) (m : List (Nat × α)) : Holds (Mem.replace l old m) l :=
  fun i hi => by rw [Mem.lookup_replace, if_pos hi, List.getElem?_eq_getElem hi]

theorem Holds.lookup_eq {α : Type} {m : List (Nat × α)} {l : List α} (h : Holds m l) {i : Nat} (hi : i < l.length) :
    Mem.lookup i m = l[i]? := (h i hi).trans (List.getElem?_eq_getElem hi).symm

theorem ceil8_eight_mul (n : Nat) : ceil8 (8 * n) = n := by
  simp only [ceil8]
  omega

/-! ### EXPORT (R240) -/

/-- EXPORT within its bound, of a container that BLOB has room for, writes the container to BLOB and BLOB_LEN. -/
theorem command_exportBody {P : Params} {s : State} (hP : P.blobCap < 2 ^ 32) (hin : s.bitsSize ≤ s.cfgMaxInput.toNat)
    (hfit : (container P s.code s.payload).length ≤ P.blobCap) :
    ∃ t, command (exportBody P) s = .next t ∧ Holds t.blob (container P s.code s.payload) ∧
      t.blobLen.toNat = (container P s.code s.payload).length ∧
      t.status = (if s.bitsLen = 0#32 then 0x01#8 else 0x00#8) ∧
      (∀ i, t.blobLen.toNat ≤ i → s.blobLen.toNat ≤ t.blobLen.toNat → Mem.lookup i t.blob = Mem.lookup i s.blob) ∧
      t = { s with status := t.status, blob := t.blob, blobLen := t.blobLen } := by
  have hrun : exportBody P s.clearStatus =
      .next ((s.clearStatus.withBlob (container P s.code s.payload)).flagIf (s.bitsLen == 0#32) EMPTY) :=
    (bounded_of_le (s := s.clearStatus) _ hin).trans (fitting_of_le _ hfit)
  obtain ⟨hframe, habove⟩ := exportBody_frame hP hrun
  refine ⟨_, hrun, ?_, by simpa using hfit.trans_lt hP, by simp [EMPTY], habove, hframe⟩
  rw [State.flagIf_blob]
  exact holds_replace _ _ _

/-- Settles O39: the four parts of the container stand where EXPORT wrote them. -/
theorem exportWritesTheContainer : Obligations.ExportWritesTheContainer := by
  intro s hin hcap
  have hlen : (container params s.code s.payload).length = 8 + (tblSer s.code).length + ceil8 s.bitsLen.toNat := by
    rw [length_container_of_magic rfl, length_payload]
    rfl
  obtain ⟨t, ht, hblob, hblobLen, hstatus, habove, hframe⟩ :=
    command_exportBody (P := params) (by decide) hin (hlen.trans_le hcap)
  have hlookup : ∀ i, i < 8 + (tblSer s.code).length + ceil8 s.bitsLen.toNat →
      Mem.lookup i t.blob = (container params s.code s.payload)[i]? := fun i hi => hblob.lookup_eq (hlen.symm ▸ hi)
  refine ⟨t, ht, hblobLen.trans hlen, fun i hi => ?_, fun i hi => ?_, fun i hi => ?_, fun j hj => ?_, hstatus, habove,
    hframe⟩
  · rw [hlookup i (by omega), getElem?_container_tag _ _ rfl hi]
  · rw [hlookup _ (by omega), getElem?_container_lengthField _ _ rfl hi]
    exact getElem?_le32 _ hi
  · rw [hlookup _ (by omega)]
    exact getElem?_container_table _ _ rfl hi
  · refine ⟨packByte s.payload j, ?_, fun k hk => byteOfBits_getMsbD _ k hk⟩
    rw [hlookup _ (by omega)]
    exact (getElem?_container_payload _ _ rfl j).trans (getElem?_pack (by rwa [length_payload]))

/-! ### A container and its parse (R228, R245) -/

theorem blobTableLength_container {P : Params} (hm : P.magic.length = 4) {t : CodeTable}
    (hL : (P.tbl.ser t).length < 2 ^ 32) (b : Bits) : blobTableLength (container P t b) = (P.tbl.ser t).length := by
  simp only [blobTableLength, container, List.append_assoc]
  rw [List.drop_left' hm, List.take_left' (length_le32 _), unle_le32 _ hL]

/-- The parse of a container: the table, and the bits with their pad zeros (R248). -/
theorem parseContainer_container {P : Params} (hm : P.magic.length = 4) {t : CodeTable}
    (ht : P.tbl.par (P.tbl.ser t) = some t) (hL : (P.tbl.ser t).length < 2 ^ 32) (b : Bits) :
    parseContainer P (container P t b) = some (t, unpack (pack b)) := by
  have hlen := length_container_of_magic hm t b
  have hfield := blobTableLength_container hm hL b
  have h8 : (P.magic ++ le32 (P.tbl.ser t).length).length = 8 := by simp [hm]
  have hframed : Framed P (container P t b) := by
    refine ⟨by omega, ?_, by omega⟩
    simp only [container, List.append_assoc]
    exact List.take_left' hm
  have htable : blobTable (container P t b) = P.tbl.ser t := by
    rw [blobTable, hfield, container, List.append_assoc _ _ (pack b), List.drop_left' h8, List.take_left' rfl]
  have hpayload : blobPayload (container P t b) = unpack (pack b) := by
    rw [blobPayload, hfield, container, List.drop_left' (by rw [List.length_append, h8])]
  rw [parseContainer_of_framed hframed, htable, ht, hpayload]
  rfl

theorem Framed.length_blobTable {P : Params} {blob : List Byte} (h : Framed P blob) :
    (blobTable blob).length = blobTableLength blob := by
  obtain ⟨-, -, hlen⟩ := h
  simp only [blobTable, List.length_take, List.length_drop]
  omega

/-- A framed blob is its tag, its length field, its table block and the rest. -/
theorem Framed.append_eq {P : Params} {blob : List Byte} (h : Framed P blob) :
    P.magic ++ le32 (blobTableLength blob) ++ blobTable blob ++ blob.drop (8 + blobTableLength blob) = blob := by
  obtain ⟨h8, hmagic, -⟩ := h
  have hfield : le32 (blobTableLength blob) = (blob.drop 4).take 4 := le32_unle (by simp; omega)
  have hrest : blobTable blob ++ blob.drop (8 + blobTableLength blob) = (blob.drop 4).drop 4 := by
    rw [← List.drop_drop, blobTable, List.take_append_drop, List.drop_drop]
  rw [List.append_assoc, hrest, hfield, ← hmagic, List.append_assoc, List.take_append_drop, List.take_append_drop]

/-- A blob that parses is the container of what it parses to, when the table codec accepts images of its serialiser only
(R232 (f), R248). -/
theorem container_of_parseContainer {P : Params} (hP : ∀ B t, P.tbl.par B = some t → P.tbl.ser t = B) {blob : List Byte}
    {t : CodeTable} {b : Bits} (h : parseContainer P blob = some (t, b)) : container P t b = blob := by
  by_cases hframed : Framed P blob
  · rw [parseContainer_of_framed hframed] at h
    obtain ⟨u, hu, e⟩ := Option.map_eq_some_iff.mp h
    cases e
    rw [container, hP _ _ hu, hframed.length_blobTable, blobPayload, pack_unpack, hframed.append_eq]
  · rw [parseContainer_of_not_framed hframed] at h
    cases h

/-! ### IMPORT (R245, R246) -/

section
variable {P : Params} {s : State}

theorem imported_of_parse {t : CodeTable} {b : Bits} (h : parseContainer P s.blobBytes = some (t, b)) :
    imported P s = (t, b, false) := by rw [imported, h]

theorem imported_of_no_parse (h : parseContainer P s.blobBytes = none) :
    imported P s = (emptyTable, unpack s.blobBytes, true) := by rw [imported, h]

/-- IMPORT within its bound, of bits that BITS has room for, writes CODE, BITS, BITS_LEN and its two flags. -/
theorem command_importBody (hP : P.bitsCap < 2 ^ 32) (hin : s.blobLen.toNat ≤ s.cfgMaxInput.toNat)
    (hfit : (imported P s).2.1.length ≤ P.bitsCap) :
    ∃ t, command (importBody P) s = .next t ∧ t.code = (imported P s).1 ∧ Holds t.bits (imported P s).2.1 ∧
      t.bitsLen.toNat = (imported P s).2.1.length ∧ t.payload = (imported P s).2.1 ∧
      t.status = (if (imported P s).2.2 then DEGRADED else 0#8) ||| (if s.blobLen = 0#32 then EMPTY else 0#8) ∧
      (∀ i, t.bitsLen.toNat ≤ i → s.bitsLen.toNat ≤ t.bitsLen.toNat → Mem.lookup i t.bits = Mem.lookup i s.bits) ∧
      t = { s with status := t.status, code := t.code, bits := t.bits, bitsLen := t.bitsLen } := by
  have hrun : importBody P s.clearStatus = .next (s.clearStatus.withImported P) := by
    rw [importBody_eq]
    exact (bounded_of_le (s := s.clearStatus) _ hin).trans (fitting_of_le _ hfit)
  obtain ⟨hframe, habove⟩ := importBody_frame hP hrun
  have hsame : imported P s.clearStatus = imported P s := rfl
  refine ⟨_, hrun, ?_, ?_, ?_, ?_, ?_, habove, hframe⟩
  all_goals simp only [State.withImported, hsame]
  · simp
  · simpa using holds_replace _ _ _
  · simpa using hfit.trans_lt hP
  · simpa using withBits_payload _ _ (hfit.trans_lt hP)
  · cases (imported P s).2.2 <;> by_cases h0 : s.blobLen = 0#32 <;> simp [h0]

/-- The bits IMPORT writes fit BITS when the bound is legal (00_scope.md R9). -/
theorem length_imported_le_bitsCap (hP : P.Legal) (hin : s.blobLen.toNat ≤ s.cfgMaxInput.toNat)
    (hcfg : s.cfgMaxInput.toNat ≤ P.maxInputLimit.toNat) : (imported P s).2.1.length ≤ P.bitsCap :=
  ((length_imported_le P s).trans (Nat.mul_le_mul_left 8 (hin.trans hcfg))).trans hP.bitsCapLow

/-- IMPORT of a container gives its table and its bits with their pad zeros (R248). -/
theorem command_importBody_container {t : CodeTable} {b : Bits} (hm : P.magic.length = 4)
    (ht : P.tbl.par (P.tbl.ser t) = some t) (hL : (P.tbl.ser t).length < 2 ^ 32)
    (hfit : 8 * ceil8 b.length ≤ P.bitsCap) (hP : P.bitsCap < 2 ^ 32)
    (hblob : s.blobBytes = container P t b) (hin : s.blobLen.toNat ≤ s.cfgMaxInput.toNat) :
    ∃ u, command (importBody P) s = .next u ∧ u.code = t ∧ u.status = 0x00#8 ∧ u.bitsLen.toNat = 8 * ceil8 b.length ∧
      Holds u.bits (b ++ List.replicate (8 * ceil8 b.length - b.length) false) := by
  have himp : imported P s = (t, unpack (pack b), false) :=
    imported_of_parse (hblob ▸ parseContainer_container hm ht hL b)
  have hbits : (imported P s).2.1.length = 8 * ceil8 b.length := by simp [himp]
  have hne : s.blobLen ≠ 0#32 := fun h0 => by
    have hlen := length_blobBytes s
    rw [hblob, length_container_of_magic hm, h0, BitVec.toNat_ofNat] at hlen
    omega
  obtain ⟨u, hu, hcode, hholds, hlen, -, hstatus, -⟩ := command_importBody hP hin (hbits.trans_le hfit)
  rw [himp] at hcode hholds hstatus
  refine ⟨u, hu, hcode, by simpa [hne] using hstatus, hlen.trans hbits, ?_⟩
  rwa [← unpack_pack]

end

/-- Pad zeros written out do not change a container (R229). -/
theorem container_pad (P : Params) (t : CodeTable) (b : Bits) :
    container P t (b ++ List.replicate (8 * ceil8 b.length - b.length) false) = container P t b := by
  rw [← unpack_pack, container, pack_unpack, container]

/-- Settles O40: a container parses to what it was made of, but for the pad zeros, and packing drops these again. -/
theorem importInvertsContainer : Obligations.ImportInvertsContainer := by
  refine ⟨fun P t b s hm ht hL hfit hP hblob hin => ?_, fun t b s ht hblob hin hcfg => ?_⟩
  · obtain ⟨u, hu, hcode, hstatus, hlen, hholds⟩ := command_importBody_container hm ht hL hfit hP hblob hin
    exact ⟨u, hu, hcode, hstatus, hlen, hholds, by rw [hcode, container_pad, hblob]⟩
  · have hL : (params.tbl.ser t).length < 2 ^ 32 := (length_tblSer_le ht).trans_lt (by decide)
    have hfit : 8 * ceil8 b.length ≤ params.bitsCap := by
      have hlen := length_blobBytes s
      have hlow := params_legal.bitsCapLow
      rw [hblob, length_container_of_magic rfl] at hlen
      omega
    obtain ⟨u, hu, hcode, hstatus, hlen, hholds⟩ :=
      command_importBody_container (P := params) rfl (tblPar_tblSer ht) hL hfit (by decide) hblob hin
    exact ⟨u, hu, hcode, hstatus, hholds, hlen⟩

/-! ### The causes of MalformedContainer (R247) -/

theorem malformed_iff {blob : List Byte} : Malformed blob ↔ parseContainer params blob = none := by
  by_cases h : Framed params blob
  · rw [parseContainer_of_framed h, Option.map_eq_none_iff]
    obtain ⟨h8, hmagic, hlen⟩ := h
    constructor
    · rintro (h4 | hne | h8' | hlen' | hpar)
      · omega
      · exact absurd hmagic hne
      · omega
      · exact absurd hlen (not_le.mpr hlen')
      · exact hpar
    · exact fun hpar => .inr (.inr (.inr (.inr hpar)))
  · refine iff_of_true ?_ (parseContainer_of_not_framed h)
    by_contra hM
    simp only [Malformed, not_or, not_lt, not_not] at hM
    obtain ⟨-, hmagic, h8, hlen, -⟩ := hM
    exact h ⟨h8, hmagic, hlen⟩

/-- The bits of a STATUS that has at most DEGRADED and EMPTY. -/
theorem status_bits_of_import {v : BitVec 8} {d : Bool} {p : Prop} [Decidable p]
    (h : v = (if d then DEGRADED else 0#8) ||| (if p then EMPTY else 0#8)) :
    v.getLsbD 1 = d ∧ (v.getLsbD 0 = true ↔ p) ∧ v &&& 0xFC#8 = 0#8 := by
  subst h
  by_cases hp : p <;> cases d <;> simp [hp, DEGRADED, EMPTY]

/-- Settles O41: the causes are those on which the parse fails, and IMPORT then takes the blob as raw bits. -/
theorem importParsesOrDegrades : Obligations.ImportParsesOrDegrades := by
  intro s hin hcfg
  obtain ⟨t, ht, hcode, hholds, hlen, -, hstatus, habove, hframe⟩ :=
    command_importBody (P := params) (by decide) hin (length_imported_le_bitsCap params_legal hin hcfg)
  obtain ⟨hdegraded, hempty, hrest⟩ := status_bits_of_import hstatus
  refine ⟨t, ht, fun hM => ?_, fun hM => ?_, hempty, hrest, habove, hframe⟩
  · rw [imported_of_no_parse (malformed_iff.mp hM)] at hdegraded hcode hholds hlen
    refine ⟨hdegraded, fun b => by simp [hcode, emptyTable], hholds, by simpa using hlen⟩
  · have hframed : Framed params s.blobBytes := by
      by_contra h
      exact hM (malformed_iff.mpr (parseContainer_of_not_framed h))
    have hpar : tblPar (blobTable s.blobBytes) ≠ none := fun h => hM (.inr (.inr (.inr (.inr h))))
    obtain ⟨c, hc⟩ := Option.ne_none_iff_exists'.mp hpar
    have hparse : parseContainer params s.blobBytes = some (c, blobPayload s.blobBytes) :=
      (parseContainer_of_framed hframed).trans (congrArg (Option.map _) hc)
    rw [imported_of_parse hparse] at hdegraded hcode hholds hlen
    refine ⟨hdegraded, hc.trans (congrArg some hcode.symm), hholds, hlen.trans ?_⟩
    rw [blobPayload, length_unpack, List.length_drop, length_blobBytes, Nat.sub_sub]
    rfl

/-! ### EXPORT after IMPORT (R248) -/

/-- An IMPORT that leaves STATUS 0 has parsed the blob within its bound, and holds what the blob parses to. -/
theorem parse_of_import {s t : State} (hcfg : s.cfgMaxInput.toNat ≤ params.maxInputLimit.toNat)
    (h : exec .importContainer s = .next t) (hstatus : t.status = 0x00#8) :
    s.blobLen.toNat ≤ s.cfgMaxInput.toNat ∧ t.cfgMaxInput = s.cfgMaxInput ∧
      parseContainer params s.blobBytes = some (t.code, t.payload) := by
  have hin : s.blobLen.toNat ≤ s.cfgMaxInput.toNat := by
    by_contra hin
    have hcap : exec .importContainer s = .next (s.clearStatus.flag CAPACITY) :=
      (importBody_eq params s.clearStatus).trans (bounded_of_lt _ (not_le.mp hin))
    cases hcap.symm.trans h
    simp [CAPACITY] at hstatus
  obtain ⟨u, hu, hcode, -, -, hpayload, hbits, -, hframe⟩ :=
    command_importBody (P := params) (by decide) hin (length_imported_le_bitsCap params_legal hin hcfg)
  cases hu.symm.trans h
  refine ⟨hin, by rw [hframe], ?_⟩
  cases hp : parseContainer params s.blobBytes with
  | none =>
    have hdegraded := (status_bits_of_import hbits).1
    rw [hstatus, imported_of_no_parse hp] at hdegraded
    cases hdegraded
  | some q =>
    rw [imported_of_parse hp] at hcode hpayload
    rw [hcode, hpayload]

/-- Settles O42: what did not degrade is a container, and EXPORT writes the container of the table and bits it parsed to. -/
theorem exportAfterImportReproducesTheBlob : Obligations.ExportAfterImportReproducesTheBlob := by
  intro s t hcfg hrun hstatus
  obtain ⟨hin, hsame, hparse⟩ := parse_of_import hcfg hrun hstatus
  have hblob : container params t.code t.payload = s.blobBytes :=
    container_of_parseContainer (fun _ _ => tblSer_of_tblPar) hparse
  have hlen : (container params t.code t.payload).length = s.blobLen.toNat := by rw [hblob, length_blobBytes]
  have hsize : t.bitsSize ≤ s.blobLen.toNat := by
    rw [← hlen, length_container_of_magic rfl, length_payload]
    exact Nat.le_add_left _ _
  have hfit : (container params t.code t.payload).length ≤ params.blobCap :=
    hlen.trans_le ((hin.trans hcfg).trans params_legal.blobCap)
  obtain ⟨u, hu, hholds, hblobLen, -⟩ := command_exportBody (by decide) (hsame ▸ hsize.trans hin) hfit
  exact ⟨u, hu, BitVec.eq_of_toNat_eq (hblobLen.trans hlen), hblob ▸ hholds⟩

end Sys2Proof.Machine
end

section
/-! SUPPORT. ENCODE beside its stages, and the state it leaves (47_session_commands.md R261 to R263). -/

namespace Sys2Proof.Machine

/-! ### The stages as commands (R262) -/

/-- A command that follows clears what a conditional flag set. -/
@[simp] theorem State.clearStatus_flagIf (s : State) (c : Bool) (f : BitVec 8) :
    (s.flagIf c f).clearStatus = s.clearStatus := by
  rcases s.flagIf_cases c f with e | e <;> rw [e]
  rfl

section
variable {P : Params} {s : State}

/-- EMIT of a mapped input that passes its capacity check is the room check and one update. -/
theorem emitBody_eq_fitting (hin : s.inSize ≤ s.cfgMaxInput.toNat) (hcov : Covers s.code s.inputBytes) :
    emitBody P s = fitting .bits P.bitsCap (codesOf s.code s.inputBytes).length (.next s.emitted) := by
  rw [emitBody, bounded_of_le _ hin]
  simp only [emit_of_covers hcov]
  rfl

@[simp] theorem withTables_inputBytes : s.withTables.inputBytes = s.inputBytes := by
  simp [State.inputBytes, State.withTables]

@[simp] theorem withTables_inLen : s.withTables.inLen = s.inLen := by simp [State.withTables]
@[simp] theorem withTables_cfgMaxInput : s.withTables.cfgMaxInput = s.cfgMaxInput := by simp [State.withTables]
@[simp] theorem withTables_bitsLen : s.withTables.bitsLen = s.bitsLen := by simp [State.withTables]
@[simp] theorem withTables_bits : s.withTables.bits = s.bits := by simp [State.withTables]

theorem encoded_eq_emitted : s.encoded = s.withTables.emitted := by
  simp only [State.encoded, State.emitted, emit_withTables, withTables_inputBytes, withTables_inLen]

/-- ENCODE is EMIT on the tables of its input: EMIT sets EMPTY whether or not an earlier stage has set it. -/
theorem encodeBody_eq_emitBody_withTables (hs : s.status = 0#8) (hin : s.inSize ≤ s.cfgMaxInput.toNat) :
    encodeBody P s = emitBody P s.withTables := by
  have hin' : s.withTables.inSize ≤ s.withTables.cfgMaxInput.toNat := by simpa [State.inSize] using hin
  have hcov : Covers s.withTables.code s.withTables.inputBytes := by simpa using covers_withTables s
  rw [encodeBody_eq_fitting P hs hin, emitBody_eq_fitting hin' hcov, emit_withTables, encoded_eq_emitted,
    withTables_inputBytes]

end

/-- Settles O45: a command clears the flag of the one before it, so COUNT, BUILD and WALK leave EMIT the tables of the input. -/
theorem encodeIsCountBuildWalkEmit : Obligations.EncodeIsCountBuildWalkEmit := by
  intro s hin
  refine ⟨_, _, _, countBody_of_le (s := s.clearStatus) hin, buildBody_eq _, walkBody_eq _, ?_⟩
  rw [exec_encode, exec_emit, encodeBody_eq_emitBody_withTables (s := s.clearStatus) rfl hin]
  simp only [State.clearStatus_flagIf]
  rfl

/-! ### The state ENCODE leaves (R263) -/

section
variable (s : State)

@[simp] theorem encoded_freq : s.encoded.freq = count s.inputBytes := by simp [State.encoded, State.withTables]
@[simp] theorem encoded_node : s.encoded.node = (buildTree (count s.inputBytes)).1 := by
  simp [State.encoded, State.withTables]
@[simp] theorem encoded_root : s.encoded.root = (buildTree (count s.inputBytes)).2 := by
  simp [State.encoded, State.withTables]
@[simp] theorem encoded_code : s.encoded.code = s.withTables.code := by simp [State.encoded]
@[simp] theorem encoded_cfgMaxInput : s.encoded.cfgMaxInput = s.cfgMaxInput := by simp [State.encoded]
@[simp] theorem encoded_origBits : s.encoded.origBits = BitVec.ofNat 32 (8 * s.inLen.toNat) := by simp [State.encoded]
theorem encoded_encBits : s.encoded.encBits = s.encoded.bitsLen := by simp [State.encoded]

theorem encoded_bits : s.encoded.bits = Mem.replace (codesOf s.withTables.code s.inputBytes) s.bitsLen.toNat s.bits := by
  simp [State.encoded, emit_withTables]

theorem encoded_status (hs : s.status = 0#8) : s.encoded.status = if s.inLen = 0#32 then 0x01#8 else 0x00#8 := by
  simp [State.encoded, hs, EMPTY]

/-- The tree of the input is well formed, and its leaves are the bytes of the input (42_tree_builder.md R152, R153). -/
theorem encoded_treeWf : TreeWf s.encoded.node s.encoded.root := by
  rw [encoded_node, encoded_root]
  exact (buildTree_spec _).1

theorem encoded_code_eq_walkTable : s.encoded.code = walkTable s.encoded.node s.encoded.root := by
  simp [State.withTables]

theorem encoded_leaf_iff {b : Byte} : (∃ i w, nodeAt s.encoded.node i = .leaf b w) ↔ b ∈ s.inputBytes := by
  obtain ⟨T, hleaf⟩ := buildTree_spec (count s.inputBytes)
  rw [← count_inputBytes_at_ne_zero_iff, encoded_node]
  constructor
  · rintro ⟨i, w, h⟩
    obtain ⟨rfl, -⟩ := T.leafPlace i b w h
    exact ((hleaf b w).mp h).1
  · exact fun h => ⟨_, _, (hleaf b _).mpr ⟨h, rfl⟩⟩

end

/-- A code has at most 255 bits, so a mapped input takes at most 255 bits a byte. -/
theorem length_codesOf_le {t : CodeTable} {x : List Byte} (ht : t.wf = true) (hx : Covers t x) :
    (codesOf t x).length ≤ 255 * x.length := by
  have h := length_emitFrom_le ht x 0
  rwa [← emit, emit_of_covers hx] at h

/-- ENCODE completes when its bound admits the input and BITS has room for the codes. -/
theorem encodeBody_of_fit {P : Params} {s : State} (hs : s.status = 0#8) (hin : s.inSize ≤ s.cfgMaxInput.toNat)
    (hfit : (codesOf s.withTables.code s.inputBytes).length ≤ P.bitsCap) : encodeBody P s = .next s.encoded := by
  rw [encodeBody_eq_fitting P hs hin, emit_withTables]
  exact fitting_of_le _ hfit

/-- Settles O46: BITS has room for codes of 255 bits, so ENCODE leaves its tables, which are those of the tree of the input. -/
theorem encodeCompletes : Obligations.EncodeCompletes := by
  intro s hin hcap
  have hlen := length_inputBytes_lt s
  have hfit : (codesOf s.clearStatus.withTables.code s.clearStatus.inputBytes).length ≤ params.bitsCap := by
    refine (length_codesOf_le (withTables_code_wf _) (covers_withTables _)).trans ?_
    rwa [length_inputBytes]
  have hrun := encodeBody_of_fit (s := s.clearStatus) rfl hin hfit
  obtain ⟨hframe, habove⟩ := encodeBody_frame params_legal.bitsCapHigh rfl hrun
  have T := encoded_treeWf s.clearStatus
  have hcode := encoded_code_eq_walkTable s.clearStatus
  refine ⟨_, hrun, fun b => ?_, ?_, T, hcode ▸ T.walkTable_prefixFree, fun b => ?_,
    fun b c => hcode ▸ T.walkTable_at_eq_some_iff, ?_, ?_, encoded_origBits _, encoded_encBits _, encoded_status _ rfl,
    habove, hframe⟩
  · rw [encoded_freq]
    exact toNat_count_at hlen b
  · exact (encoded_unique _).trans (present_count hlen)
  · rw [hcode]
    exact T.walkTable_at_isSome_iff.trans (encoded_leaf_iff _)
  · rw [encoded_bits, encoded_code, ← clearStatus_inputBytes]
    exact holds_replace _ _ _
  · rw [encoded_bitsLen, encoded_code, ← clearStatus_inputBytes]
    exact Nat.mod_eq_of_lt (hfit.trans_lt params_legal.bitsCapHigh)

end Sys2Proof.Machine
end

section
/-! SUPPORT. The round trips: ENCODE then a decode command, UNPACK, and ENCODE, EXPORT, IMPORT, DECT (47_session_commands.md R266,
R270, R271). -/

namespace Sys2Proof.Machine

/-! ### A decode command within a legal bound (R202, R210, R221) -/

theorem outBytes_of_holds {s : State} {l : List Byte} (hout : Holds s.out l) (hlen : s.outLen.toNat = l.length) :
    s.outBytes = l := by
  rw [State.outBytes, hlen]
  exact Mem.read_eq _ _ _ hout

theorem payload_of_holds {s : State} {b : Bits} (hbits : Holds s.bits b) (hlen : s.bitsLen.toNat = b.length) :
    s.payload = b := by
  rw [State.payload, hlen]
  exact Mem.read_eq _ _ _ hbits

/-- The bytes a decoder makes of a payload that a legal bound admits, at most one a bit, fit OUT. -/
theorem length_decoded_le_outCap {P : Params} {s : State} {l : List Byte} (hP : P.Legal)
    (hin : s.bitsSize ≤ s.cfgMaxInput.toNat) (hcfg : s.cfgMaxInput.toNat ≤ P.maxInputLimit.toNat)
    (hl : l.length ≤ s.bitsLen.toNat) : l.length ≤ P.outCap := by
  have hout := hP.outCap
  simp only [State.bitsSize, ceil8] at hin
  omega

/-- A decode command that a legal bound admits leaves the bytes it makes of the payload. -/
theorem decode_outBytes {P : Params} {s : State} {l : List Byte} (hP : P.Legal) (hO : P.outCap < 2 ^ 32)
    (hin : s.bitsSize ≤ s.cfgMaxInput.toNat) (hcfg : s.cfgMaxInput.toNat ≤ P.maxInputLimit.toNat)
    (hl : l.length ≤ s.bitsLen.toNat) :
    ∃ t, bounded s.clearStatus.bitsSize (emitDecoded P l) s.clearStatus = .next t ∧ t.outBytes = l := by
  obtain ⟨t, ht, hholds, hlen, -⟩ := decode_completes hO hin (length_decoded_le_outCap hP hin hcfg hl)
  exact ⟨t, ht, outBytes_of_holds hholds hlen⟩

section
variable {s : State} (hin : s.bitsSize ≤ s.cfgMaxInput.toNat) (hcfg : s.cfgMaxInput.toNat ≤ params.maxInputLimit.toNat)
include hin hcfg

theorem exec_dect_outBytes : ∃ t, exec .dect s = .next t ∧ t.outBytes = dect s.code s.payload :=
  decode_outBytes params_legal (by decide) hin hcfg ((length_dect_le _ _).trans_eq (length_payload s))

theorem exec_decr_outBytes : ∃ t, exec .decr s = .next t ∧ t.outBytes = decr s.node s.root s.payload :=
  decode_outBytes params_legal (by decide) hin hcfg ((length_decr_le _ _ _).trans_eq (length_payload s))

end

/-! ### ENCODE, then a decode command (R270) -/

section
variable (s : State)

theorem encoded_bitsLen_of_lt (h : (codesOf s.withTables.code s.inputBytes).length < 2 ^ 32) :
    s.encoded.bitsLen.toNat = (codesOf s.withTables.code s.inputBytes).length :=
  (encoded_bitsLen s).trans (Nat.mod_eq_of_lt h)

theorem encoded_payload (h : (codesOf s.withTables.code s.inputBytes).length < 2 ^ 32) :
    s.encoded.payload = codesOf s.encoded.code s.inputBytes := by
  rw [encoded_code]
  refine payload_of_holds ?_ (encoded_bitsLen_of_lt s h)
  rw [encoded_bits]
  exact holds_replace _ _ _

theorem covers_encoded : Covers s.encoded.code s.inputBytes := by
  rw [encoded_code]
  exact covers_withTables s

/-- The table of the input decodes the codes of the input, and what follows them on its own (45_bitstream_decoder.md R215). -/
theorem dect_encoded (tail : Bits) : dect s.encoded.code (codesOf s.encoded.code s.inputBytes ++ tail) =
    s.inputBytes ++ dect s.encoded.code tail := by
  have T := encoded_treeWf s
  have hcov := covers_encoded s
  rw [encoded_code_eq_walkTable] at hcov ⊢
  exact T.walkTable_prefixFree.dect_codesOf_append T.walkTable_wf hcov tail

/-- So does its tree (R216). -/
theorem decr_encoded : decr s.encoded.node s.encoded.root (codesOf s.encoded.code s.inputBytes) = s.inputBytes := by
  have hcov := covers_encoded s
  rw [encoded_code_eq_walkTable] at hcov ⊢
  have h := (treeWalkInvertsEmit _ _ s.inputBytes (encoded_treeWf s) fun b hb => (encoded_leaf_iff s).mpr hb).1
  rwa [emit_of_covers hcov] at h

end

theorem length_payload_lt {s : State} (hin : s.inSize ≤ s.cfgMaxInput.toNat)
    (hcfg : s.cfgMaxInput.toNat ≤ params.maxInputLimit.toNat) :
    (codesOf s.withTables.code s.inputBytes).length < 2 ^ 32 := by
  have hle := length_payload_le_eight_mul s
  have hlimit := params_legal.limit
  rw [State.inSize] at hin
  omega

/-- A decode command run on what ENCODE left gives back the input when its bound admits the payload. -/
theorem decode_encoded {s : State} (hin : s.inSize ≤ s.cfgMaxInput.toNat)
    (hcfg : s.cfgMaxInput.toNat ≤ params.maxInputLimit.toNat)
    (hpayload : s.encoded.bitsSize ≤ s.encoded.cfgMaxInput.toNat) :
    (∃ u, exec .dect s.encoded = .next u ∧ u.outBytes = s.inputBytes) ∧
      ∃ u, exec .decr s.encoded = .next u ∧ u.outBytes = s.inputBytes := by
  have hcfg' : s.encoded.cfgMaxInput.toNat ≤ params.maxInputLimit.toNat := by rwa [encoded_cfgMaxInput]
  have hdect := exec_dect_outBytes hpayload hcfg'
  have hdecr := exec_decr_outBytes hpayload hcfg'
  have hx : dect s.encoded.code (codesOf s.encoded.code s.inputBytes) = s.inputBytes := by
    simpa [dect, dectFrom] using dect_encoded s []
  rw [encoded_payload s (length_payload_lt hin hcfg)] at hdect hdecr
  exact ⟨hx ▸ hdect, decr_encoded s ▸ hdecr⟩

/-- Settles O49: ENCODE that did not raise CAPACITY ran on an input within its bound, and left a code that both decoders invert. -/
theorem encodeThenDecodeWhenThePayloadFits : Obligations.EncodeThenDecodeWhenThePayloadFits := by
  intro s t hcfg hrun hstatus hpayload
  rcases encodeBody_outcome params (s := s.clearStatus) rfl with ⟨-, e⟩ | ⟨-, -, e⟩ | ⟨hin, -, e⟩ <;>
    cases e.symm.trans hrun
  · exact absurd BitVec.zero_or hstatus
  · exact decode_encoded (s := s.clearStatus) hin hcfg hpayload

/-- The payload has at most eight bits a byte, so the bound that admits the input admits the payload (44_bitstream_encoder.md
R193). -/
theorem encoded_bitsSize_le {s : State} (hin : s.inSize ≤ s.cfgMaxInput.toNat) :
    s.encoded.bitsSize ≤ s.encoded.cfgMaxInput.toNat := by
  have hle : s.encoded.bitsLen.toNat ≤ 8 * s.inLen.toNat :=
    (encoded_bitsLen s).trans_le ((Nat.mod_le _ _).trans (length_payload_le_eight_mul s))
  rw [encoded_cfgMaxInput]
  simp only [State.bitsSize, State.inSize, ceil8] at hin ⊢
  omega

/-- Settles O50: ENCODE completes within a legal bound, and its payload is within that bound too. -/
theorem encodeThenDecodeGivesTheInput : Obligations.EncodeThenDecodeGivesTheInput := by
  intro s hin hcfg
  exact ⟨_, encodeBody_of_le (s := s.clearStatus) params_legal rfl hin hcfg,
    decode_encoded (s := s.clearStatus) hin hcfg (encoded_bitsSize_le (s := s.clearStatus) hin)⟩


/-! ### UNPACK (R266) -/

section
variable {P : Params} {s : State}

theorem withImported_code : (s.withImported P).code = (imported P s).1 := by simp [State.withImported]

theorem withImported_payload (hfit : (imported P s).2.1.length < 2 ^ 32) :
    (s.withImported P).payload = (imported P s).2.1 := by
  simpa [State.withImported] using withBits_payload _ _ hfit

/-- DEGRADED is set only with the empty table (46_container_codec.md R246). -/
theorem withImported_code_of_degraded (hs : s.status = 0#8) (h : (s.withImported P).status.getLsbD 1 = true) :
    (s.withImported P).code = emptyTable := by
  rw [State.withImported, State.flagIf_getLsbD _ rfl] at h
  rw [withImported_code]
  cases hp : parseContainer P s.blobBytes with
  | none => rw [imported_of_no_parse hp]
  | some q =>
    rw [imported_of_parse (t := q.1) (b := q.2) hp] at h
    simp [hs] at h

@[simp] theorem withImported_cfgMaxInput : (s.withImported P).cfgMaxInput = s.cfgMaxInput := by simp [State.withImported]

/-- IMPORT completes within a legal bound. -/
theorem importBody_of_le (hP : P.Legal) (hin : s.blobSize ≤ s.cfgMaxInput.toNat)
    (hcfg : s.cfgMaxInput.toNat ≤ P.maxInputLimit.toNat) : importBody P s = .next (s.withImported P) := by
  rw [importBody_eq, bounded_of_le _ hin, fitting_of_le _ (length_imported_le_bitsCap hP hin hcfg)]

end

/-- The empty table decodes nothing (46_container_codec.md R246). -/
theorem dect_emptyTable (b : Bits) : dect emptyTable b = [] :=
  NoCode.dect_eq_nil fun p a _ _ => by simp [emptyTable]

/-- A decode stage behind a stage whose flags stay set does what the command does, which clears them first. -/
theorem withOut_flagIf_status (s : State) (l : List Byte) (c : Bool) (f : BitVec 8) :
    (s.withOut l).flagIf c f = { (s.clearStatus.withOut l).flagIf c f with
      status := s.status ||| ((s.clearStatus.withOut l).flagIf c f).status } := by
  cases c
  · simp [State.withOut, State.clearStatus]
  · simp [State.withOut, State.clearStatus, State.flag]

/-- What IMPORT left is within the bound that admitted the blob. -/
theorem withImported_bitsSize_le {P : Params} {s : State} (hin : s.blobSize ≤ s.cfgMaxInput.toNat) :
    (s.withImported P).bitsSize ≤ (s.withImported P).cfgMaxInput.toNat := by
  have hle := length_imported_le P s
  simp only [State.blobSize] at hin
  simp only [State.bitsSize, State.withImported, State.flagIf_bitsLen, State.withBits_bitsLen, BitVec.toNat_ofNat,
    State.flagIf_cfgMaxInput, State.withBits_cfgMaxInput, State.withCode_cfgMaxInput, ceil8]
  omega

/-- UNPACK within a legal bound decodes what IMPORT left (R266). -/
theorem unpackBody_of_le {P : Params} {s : State} (hP : P.Legal) (hs : s.status = 0#8)
    (hin : s.blobSize ≤ s.cfgMaxInput.toNat) (hcfg : s.cfgMaxInput.toNat ≤ P.maxInputLimit.toNat) :
    unpackBody P s = emitDecoded P (dect (s.withImported P).code (s.withImported P).payload) (s.withImported P) := by
  have hbits := length_imported_le_bitsCap hP hin hcfg
  rw [unpackBody_eq_emitDecoded hP.bitsCapHigh hs hin, fitting_of_le _ hbits, withImported_code,
    withImported_payload (hbits.trans_lt hP.bitsCapHigh)]

/-- Settles O51: UNPACK's second stage is DECT on what IMPORT left, but for the flags that DECT clears. -/
theorem unpackIsImportThenDect : Obligations.UnpackIsImportThenDect := by
  intro s hin hcfg
  have himport := importBody_of_le (s := s.clearStatus) params_legal hin hcfg
  have hunpack := unpackBody_of_le (s := s.clearStatus) params_legal rfl hin hcfg
  have hdegraded := withImported_code_of_degraded (P := params) (s := s.clearStatus) rfl
  have hsize := withImported_bitsSize_le (P := params) (s := s.clearStatus) hin
  have hcfg' : (s.clearStatus.withImported params).cfgMaxInput.toNat ≤ params.maxInputLimit.toNat := by simpa using hcfg
  generalize s.clearStatus.withImported params = t at *
  have hfit : (dect t.code t.payload).length ≤ params.outCap :=
    length_decoded_le_outCap params_legal hsize hcfg' ((length_dect_le _ _).trans_eq (length_payload t))
  have hdect : exec .dect t =
      .next ((t.clearStatus.withOut (dect t.code t.payload)).flagIf (t.bitsLen == 0#32) EMPTY) :=
    (bounded_of_le (s := t.clearStatus) _ hsize).trans (fitting_of_le _ hfit)
  refine ⟨t, _, himport, hdect, ?_, fun h => ?_⟩
  · rw [← withOut_flagIf_status]
    exact hunpack.trans (fitting_of_le _ hfit)
  · simp [hdegraded h, dect_emptyTable]

/-! ### ENCODE, EXPORT, IMPORT, DECT (R271) -/

theorem Holds.of_append {α : Type} {m : List (Nat × α)} {l l' : List α} (h : Holds m (l ++ l')) : Holds m l :=
  fun i hi => by rw [h i (by rw [List.length_append]; omega), List.getElem_append_left hi]

section
variable {P : Params} {s t : State}

/-- An ENCODE that leaves STATUS 0 ran on a non-empty input within its bound. -/
theorem encodeBody_eq_next_encoded (hs : s.status = 0#8) (h : encodeBody P s = .next t) (ht : t.status = 0#8) :
    s.inSize ≤ s.cfgMaxInput.toNat ∧ s.inLen ≠ 0#32 ∧ t = s.encoded := by
  rcases encodeBody_outcome P hs with ⟨-, e⟩ | ⟨-, -, e⟩ | ⟨hin, -, e⟩ <;> cases e.symm.trans h
  · simp [hs, CAPACITY] at ht
  · refine ⟨hin, fun h0 => ?_, rfl⟩
    rw [encoded_status s hs, if_pos h0] at ht
    exact absurd ht (by decide)

/-- An EXPORT that leaves STATUS 0 leaves the container of its table and its payload. -/
theorem exportBody_blobBytes (hP : P.blobCap < 2 ^ 32) (hs : s.status = 0#8) (h : exportBody P s = .next t)
    (ht : t.status = 0#8) : t.blobBytes = container P s.code s.payload := by
  rcases exportBody_cases P s with ⟨-, e⟩ | ⟨-, -, e⟩ | ⟨-, hfit, e⟩ <;> cases e.symm.trans h
  · simp [hs, CAPACITY] at ht
  · rw [State.blobBytes_flagIf]
    exact withBlob_blobBytes _ _ (hfit.trans_lt hP)

/-- IMPORT of a container leaves its table and its padded payload, within the bound that admitted it. -/
theorem import_container {c : CodeTable} {b : Bits} (hc : c.wf = true) (hblob : s.blobBytes = container params c b)
    (hin : s.blobLen.toNat ≤ s.cfgMaxInput.toNat) (hcfg : s.cfgMaxInput.toNat ≤ params.maxInputLimit.toNat) :
    ∃ w, exec .importContainer s = .next w ∧ w.code = c ∧ w.cfgMaxInput = s.cfgMaxInput ∧
      Holds w.bits (b ++ List.replicate (8 * ceil8 b.length - b.length) false) ∧
      w.bitsLen.toNat = 8 * ceil8 b.length ∧ ceil8 b.length ≤ w.cfgMaxInput.toNat := by
  obtain ⟨w, hw, hcode, -, hholds, hlen⟩ := importInvertsContainer.2 c b s hc hblob hin hcfg
  have hframe := (importBody_frame (s := s.clearStatus) params_legal.bitsCapHigh hw).1
  have hsame : w.cfgMaxInput = s.cfgMaxInput := by rw [hframe, State.clearStatus_cfgMaxInput]
  refine ⟨w, hw, hcode, hsame, hholds, hlen, ?_⟩
  have hsize := length_blobBytes s
  rw [hblob, length_container_of_magic rfl] at hsize
  rw [hsame]
  omega

end

theorem encoded_root_ne_nil {s : State} (h : s.inLen ≠ 0#32) : s.encoded.root ≠ NIL := by
  rwa [encoded_root, ne_eq, buildTree_root_eq_nil_iff, count_inputBytes_eq_zero_iff]

/-- The table of a non-empty input decodes its payload, and pad zeros behind it to the symbol of the all-zero code
(45_bitstream_decoder.md R219). -/
theorem dect_encoded_padded {s : State} (h : s.inLen ≠ 0#32) : ∃ z d, s.encoded.code.at z = some (List.replicate d false) ∧
    ∀ m, dect s.encoded.code (codesOf s.encoded.code s.inputBytes ++ List.replicate m false) =
      s.inputBytes ++ List.replicate (m / d) z := by
  obtain ⟨z, d, -, hz, -, hpad⟩ :=
    padBitsDecodeToTheAllZeroSymbol _ _ (encoded_treeWf s) (encoded_root_ne_nil h)
  rw [← encoded_code_eq_walkTable] at hz hpad
  exact ⟨z, d, hz, fun m => by rw [dect_encoded, (hpad m).1]⟩

section
variable {w : State} {b : Bits} (hbits : Holds w.bits (b ++ List.replicate (8 * ceil8 b.length - b.length) false))
  (hsize : ceil8 b.length ≤ w.cfgMaxInput.toNat) (hcfg : w.cfgMaxInput.toNat ≤ params.maxInputLimit.toNat)
include hbits hsize hcfg

/-- DECT of a padded payload as IMPORT left it. -/
theorem exec_dect_padded (hlen : w.bitsLen.toNat = 8 * ceil8 b.length) : ∃ y, exec .dect w = .next y ∧
    y.outBytes = dect w.code (b ++ List.replicate (8 * ceil8 b.length - b.length) false) := by
  have hpadded : (b ++ List.replicate (8 * ceil8 b.length - b.length) false).length = 8 * ceil8 b.length := by
    rw [← unpack_pack, length_unpack, length_pack]
  rw [← payload_of_holds hbits (hlen.trans hpadded.symm)]
  exact exec_dect_outBytes (by rwa [State.bitsSize, hlen, ceil8_eight_mul]) hcfg

/-- DECT of a padded payload with BITS_LEN lowered to the length without the pad zeros. -/
theorem exec_dect_cut {n : Word} (hn : n.toNat = b.length) :
    ∃ y, exec .dect (w.setBitsLen n) = .next y ∧ y.outBytes = dect w.code b := by
  have hpayload : (w.setBitsLen n).payload = b := payload_of_holds hbits.of_append hn
  have hdect := exec_dect_outBytes (s := w.setBitsLen n) (by rwa [State.bitsSize, State.setBitsLen_bitsLen, hn]) hcfg
  rwa [hpayload] at hdect

end

/-- Settles O52: IMPORT gives back the table and the payload with its pad zeros; cut to ENC_BITS that is the payload again. -/
theorem encodeExportImportDecode : Obligations.EncodeExportImportDecode := by
  intro s t u v hcfg hencode ht hexport hu hblob hin hcfg'
  obtain ⟨hins, hne, rfl⟩ := encodeBody_eq_next_encoded (s := s.clearStatus) rfl hencode ht
  have hc : CodeTable.wf s.clearStatus.encoded.code = true := by
    rw [encoded_code]
    exact withTables_code_wf _
  have hcontainer := hblob.trans (exportBody_blobBytes (by decide) rfl hexport hu)
  obtain ⟨w, hw, hcode, hsame, hbits, hbitsLen, hsize⟩ := import_container hc hcontainer hin hcfg'
  have hcfgw : w.cfgMaxInput.toNat ≤ params.maxInputLimit.toNat := by rwa [hsame]
  have hcut := exec_dect_cut hbits hsize hcfgw (n := s.clearStatus.encoded.encBits) (by simp [encoded_encBits])
  have hpadded := exec_dect_padded hbits hsize hcfgw hbitsLen
  obtain ⟨z, d, hz, hpad⟩ := dect_encoded_padded hne
  rw [← encoded_payload _ (length_payload_lt hins hcfg), clearStatus_inputBytes] at hpad
  rw [hcode, clearStatus_payload] at hcut hpadded
  refine ⟨w, hw, ?_, ?_⟩
  · have hx : dect s.clearStatus.encoded.code s.clearStatus.encoded.payload = s.inputBytes := by simpa using hpad 0
    rwa [hx] at hcut
  · obtain ⟨y, hy, hout⟩ := hpadded
    rw [hpad, length_payload] at hout
    exact ⟨y, z, d, hy, hz, hout⟩

end Sys2Proof.Machine
end

section
/-! SUPPORT. SRESET, illegal words, and what the capacity check and EMPTY mean for every command (47_session_commands.md R260,
60_exceptions.md R283, R285, R286). -/

namespace Sys2Proof.Machine

/-- Settles O44: the baseline is the reset state but for what SRESET keeps, and clearing a cleared session changes nothing. -/
theorem sessionResetBaseline : Obligations.SessionResetBaseline := fun s =>
  ⟨s.clearStatus.clearSession, rfl, Table.at_replicate _, rfl, nodeAt_free, rfl, Table.at_replicate _, rfl, rfl, rfl, rfl, rfl,
    rfl, rfl, rfl, rfl, rfl, rfl, rfl⟩

/-! ### The outcome of a checked run (R283, R285) -/

/-- STATUS `v` of a command that passed its capacity check, its primary input being empty exactly when `p`. -/
def FinishedStatus (v : BitVec 8) (p : Prop) : Prop :=
  v.getLsbD 3 = false ∧ (v &&& 0x1C#8 = 0#8 → (v.getLsbD 0 = true ↔ p))

/-- The run `r` from `s` of a command that compares `n` bytes with the bound: CAPACITY alone, or EMPTY exactly when the primary
input, `p` with the state left, is empty. -/
def CheckedRun (n : Nat) (s : State) (r : Result) (p : State → Prop) : Prop :=
  (s.cfgMaxInput.toNat < n ∧ r = .next (s.flag CAPACITY)) ∨
    (n ≤ s.cfgMaxInput.toNat ∧ ∀ t, r = .next t → FinishedStatus t.status (p t))

section
variable {P : Params} {s t : State} {p : Prop} {c : Bool}

/-- The last flag a command sets is EMPTY. -/
theorem finishedStatus_flagIf (hcap : s.status.getLsbD 3 = false) (hempty : (s.status.getLsbD 0 = true ∨ c = true) ↔ p) :
    FinishedStatus (s.flagIf c EMPTY).status p := by
  refine ⟨by rwa [State.flagIf_getLsbD _ rfl], fun _ => ?_⟩
  rw [← hempty]
  cases c
  · simp
  · simp [EMPTY]

theorem finishedStatus_of_clear (hs : s.status = 0#8) (hempty : c = true ↔ p) :
    FinishedStatus (s.flagIf c EMPTY).status p :=
  finishedStatus_flagIf (by rw [hs]; rfl) (by simpa [hs] using hempty)

theorem sresetBody_checkedRun (hs : s.status = 0#8) : CheckedRun 0 s (sresetBody s) fun _ => False := by
  refine .inr ⟨Nat.zero_le _, fun t ht => ?_⟩
  cases ht
  exact finishedStatus_of_clear (s := s.clearSession) (c := false) hs (by simp)

theorem countBody_checkedRun (hs : s.status = 0#8) :
    CheckedRun s.inSize s (countBody s) fun _ => s.inLen = 0#32 := by
  refine (countBody_cases s).imp id fun ⟨hin, e⟩ => ⟨hin, fun t ht => ?_⟩
  cases e.symm.trans ht
  exact finishedStatus_of_clear (by simpa using hs) beq_iff_eq

theorem buildBody_checkedRun (hs : s.status = 0#8) :
    CheckedRun 0 s (buildBody s) fun _ => ∀ b, s.freq.at b = 0#32 := by
  refine .inr ⟨Nat.zero_le _, fun t ht => ?_⟩
  cases (buildBody_eq s).symm.trans ht
  exact finishedStatus_of_clear hs (all_zero_iff _)

theorem walkBody_checkedRun (hs : s.status = 0#8) : CheckedRun 0 s (walkBody s) fun _ => s.root = NIL := by
  refine .inr ⟨Nat.zero_le _, fun t ht => ?_⟩
  cases (walkBody_eq s).symm.trans ht
  exact finishedStatus_of_clear hs beq_iff_eq

/-- UNKNOWN_SYMBOL is fatal, so it says nothing of EMPTY. -/
theorem emitBody_checkedRun (hs : s.status = 0#8) :
    CheckedRun s.inSize s (emitBody P s) fun _ => s.inLen = 0#32 := by
  rcases emitBody_cases P s with h | ⟨hin, -, e⟩ | ⟨hin, -, sym, pos, -, e⟩ | ⟨hin, -, -, e⟩
  · exact .inl h
  all_goals
    refine .inr ⟨hin, fun t ht => ?_⟩
    cases e.symm.trans ht
  · have hv : ((s.dropBits.withErr sym (BitVec.ofNat 32 pos)).flag UNKNOWN_SYMBOL).status = 0x04#8 := by
      simp [hs, UNKNOWN_SYMBOL]
    rw [hv]
    exact ⟨rfl, fun h => absurd h (by decide)⟩
  · exact finishedStatus_of_clear hs beq_iff_eq

theorem emitDecoded_finished {l : List Byte} (hs : s.status.getLsbD 3 = false) (h : emitDecoded P l s = .next t) :
    FinishedStatus t.status (s.status.getLsbD 0 = true ∨ s.bitsLen = 0#32) := by
  rcases emitDecoded_cases P l s with ⟨-, e⟩ | ⟨-, e⟩ <;> cases e.symm.trans h
  exact finishedStatus_flagIf hs (by simp)

/-- DECT and DECR, whatever bytes `l` they decode. -/
theorem decode_checkedRun {l : List Byte} (hs : s.status = 0#8) :
    CheckedRun s.bitsSize s (bounded s.bitsSize (emitDecoded P l) s) fun _ => s.bitsLen = 0#32 := by
  refine (bounded_cases s.bitsSize (emitDecoded P l) s).imp id fun ⟨hin, e⟩ => ⟨hin, fun t ht => ?_⟩
  simpa [hs] using emitDecoded_finished (by rw [hs]; rfl) (e.symm.trans ht)

theorem exportBody_checkedRun (hs : s.status = 0#8) :
    CheckedRun s.bitsSize s (exportBody P s) fun _ => s.bitsLen = 0#32 := by
  rcases exportBody_cases P s with h | ⟨hin, -, e⟩ | ⟨hin, -, e⟩
  · exact .inl h
  all_goals
    refine .inr ⟨hin, fun t ht => ?_⟩
    cases e.symm.trans ht
  exact finishedStatus_of_clear hs beq_iff_eq

theorem withImported_capacityBit (hs : s.status = 0#8) : (s.withImported P).status.getLsbD 3 = false := by
  rw [State.withImported, State.flagIf_getLsbD _ rfl, State.flagIf_getLsbD _ rfl, State.withBits_status,
    State.withCode_status, hs]
  rfl

theorem withImported_emptyBit (hs : s.status = 0#8) :
    (s.withImported P).status.getLsbD 0 = true ↔ s.blobLen = 0#32 := by
  simp only [State.withImported, State.flagIf_status, State.withBits_status, State.withCode_status, hs]
  cases (imported P s).2.2 <;> by_cases h : s.blobLen = 0#32 <;> simp [h, EMPTY, DEGRADED]

theorem importBody_checkedRun (hs : s.status = 0#8) :
    CheckedRun s.blobSize s (importBody P s) fun _ => s.blobLen = 0#32 := by
  rcases importBody_cases P s with h | ⟨hin, -, e⟩ | ⟨hin, -, e⟩
  · exact .inl h
  all_goals
    refine .inr ⟨hin, fun t ht => ?_⟩
    cases e.symm.trans ht
  exact ⟨withImported_capacityBit hs, fun _ => withImported_emptyBit hs⟩

theorem encodeBody_checkedRun (hs : s.status = 0#8) :
    CheckedRun s.inSize s (encodeBody P s) fun _ => s.inLen = 0#32 := by
  rcases encodeBody_outcome P hs with h | ⟨hin, -, e⟩ | ⟨hin, -, e⟩
  · exact .inl h
  all_goals
    refine .inr ⟨hin, fun t ht => ?_⟩
    cases e.symm.trans ht
  rw [State.encoded]
  exact finishedStatus_of_clear (by simpa using hs) beq_iff_eq

/-- EMPTY stays from IMPORT, or is set by DECT on what IMPORT left. -/
theorem unpackBody_checkedRun (hP : P.bitsCap < 2 ^ 32) (hs : s.status = 0#8) :
    CheckedRun s.blobSize s (unpackBody P s) fun t => s.blobLen = 0#32 ∨ t.bitsLen = 0#32 := by
  rcases unpackBody_outcome hP hs with h | ⟨hin, -, e⟩ | ⟨hin, -, e⟩
  · exact .inl h
  all_goals refine .inr ⟨hin, fun t ht => ?_⟩
  · cases e.symm.trans ht
  · rcases emitDecoded_cases P (dect (imported P s).1 (imported P s).2.1) (s.withImported P) with ⟨-, e'⟩ | ⟨-, e'⟩ <;>
      cases (e.trans e').symm.trans ht
    refine finishedStatus_flagIf (withImported_capacityBit hs) ?_
    rw [State.withOut_status, withImported_emptyBit hs]
    simp

end

/-! ### Every command -/

/-- The byte length that a command compares with its bound; SRESET, BUILD and WALK have no check (R285). -/
def checkedSize (s : State) : Instr → Nat
  | .sreset | .build | .walk => 0
  | .count | .emit | .encode => s.inLen.toNat
  | .dect | .decr | .exportContainer => ceil8 s.bitsLen.toNat
  | .importContainer | .unpack => s.blobLen.toNat

theorem exec_checkedRun (i : Instr) (s : State) :
    CheckedRun (checkedSize s i) s.clearStatus (exec i s) (EmptyInput i s) := by
  cases i with
  | sreset => exact sresetBody_checkedRun (s := s.clearStatus) rfl
  | count => exact countBody_checkedRun (s := s.clearStatus) rfl
  | build => exact buildBody_checkedRun (s := s.clearStatus) rfl
  | walk => exact walkBody_checkedRun (s := s.clearStatus) rfl
  | emit => exact emitBody_checkedRun (s := s.clearStatus) rfl
  | dect => exact decode_checkedRun (s := s.clearStatus) (l := dect s.code s.payload) rfl
  | decr => exact decode_checkedRun (s := s.clearStatus) (l := decr s.node s.root s.payload) rfl
  | exportContainer => exact exportBody_checkedRun (s := s.clearStatus) rfl
  | importContainer => exact importBody_checkedRun (s := s.clearStatus) rfl
  | encode => exact encodeBody_checkedRun (s := s.clearStatus) rfl
  | unpack => exact unpackBody_checkedRun (s := s.clearStatus) params_legal.bitsCapHigh rfl

theorem exec_of_lt {i : Instr} {s : State} (h : s.cfgMaxInput.toNat < checkedSize s i) :
    exec i s = .next { s with status := 0x08#8 } := by
  rcases exec_checkedRun i s with ⟨-, e⟩ | ⟨hle, -⟩
  · rw [e, State.flag_clearStatus, CAPACITY]
  · exact absurd h (not_lt.mpr hle)

/-- CAPACITY means that the bound was exceeded. -/
theorem lt_checkedSize_of_capacity {i : Instr} {s t : State} (h : exec i s = .next t) (hcap : t.status.getLsbD 3 = true) :
    s.cfgMaxInput.toNat < checkedSize s i := by
  rcases exec_checkedRun i s with ⟨hlt, -⟩ | ⟨-, hfin⟩
  · exact hlt
  · exact absurd ((hfin t h).1.symm.trans hcap) (by decide)

theorem lt_checkedSize_iff {n : Nat} {s : State} {i : Instr} : n < checkedSize s i ↔
    (i ∈ [Instr.count, .emit, .encode] ∧ n < s.inLen.toNat) ∨
    (i ∈ [Instr.dect, .decr, .exportContainer] ∧ n < ceil8 s.bitsLen.toNat) ∨
    (i ∈ [Instr.importContainer, .unpack] ∧ n < s.blobLen.toNat) := by
  cases i <;> simp [checkedSize]

/-- Settles O53: a command beyond its bound does its capacity check only, and no other outcome of a command has CAPACITY. -/
theorem capacityIsRejectedBeforeAnyProcessing : Obligations.CapacityIsRejectedBeforeAnyProcessing := fun _ =>
  ⟨fun h _ hi => exec_of_lt (lt_checkedSize_iff.mpr (.inl ⟨hi, h⟩)),
    fun h _ hi => exec_of_lt (lt_checkedSize_iff.mpr (.inr (.inl ⟨hi, h⟩))),
    fun h _ hi => exec_of_lt (lt_checkedSize_iff.mpr (.inr (.inr ⟨hi, h⟩))),
    fun _ _ ht hcap => lt_checkedSize_iff.mp (lt_checkedSize_of_capacity ht hcap)⟩

/-- Settles O54: CAPACITY is fatal, and a command that passed its check sets EMPTY exactly for an empty input. -/
theorem emptyExactlyForEmptyInput : Obligations.EmptyExactlyForEmptyInput := by
  intro i s t h hfatal
  rcases exec_checkedRun i s with ⟨-, e⟩ | ⟨-, hfin⟩
  · cases e.symm.trans h
    simp [CAPACITY] at hfatal
  · exact (hfin t h).2 hfatal

/-! ### Reserved words (R286) -/

theorem decodeOp_of_reserved : ∀ op : BitVec 4, op.toNat = 0 ∨ 11 < op.toNat → decodeOp op = .error (.reservedOp op) := by
  decide

theorem zeroField_eq_zero_iff {w : BitVec 8} : zeroField w = 0#4 ↔ w.toNat < 16 := by
  rw [zeroField, ← BitVec.toNat_inj, BitVec.extractLsb'_toNat, Nat.shiftRight_eq_div_pow]
  have := w.isLt
  simp only [BitVec.toNat_ofNat]
  omega

theorem opField_toNat {w : BitVec 8} (h : w.toNat < 16) : (opField w).toNat = w.toNat := by
  rw [opField, BitVec.extractLsb'_toNat, Nat.shiftRight_zero]
  exact Nat.mod_eq_of_lt h

/-- A reserved word is rejected by its opcode or by its bits above it (30_encoding.md R93). -/
theorem decode_of_reserved {w : BitVec 8} (h : w.toNat = 0 ∨ 11 < w.toNat) : decode w =
    if w.toNat < 16 then .error (.reservedOp (opField w)) else .error (.nonZeroField (zeroField w)) := by
  rw [decode]
  by_cases hw : w.toNat < 16
  · rw [if_pos (zeroField_eq_zero_iff.mpr hw), if_pos hw]
    exact decodeOp_of_reserved _ (by rwa [opField_toNat hw])
  · rw [if_neg (mt zeroField_eq_zero_iff.mp hw), if_neg hw]

/-- Settles O2: the decoder rejects the word, and a step that issues a rejected word raises ILLEGAL_CMD alone. -/
theorem reservedWordSetsIllegalCmdOnly : Obligations.ReservedWordSetsIllegalCmdOnly := by
  intro w h
  refine ⟨decode_of_reserved h, fun s op rest hp hi => ?_⟩
  obtain ⟨e, he⟩ := exists_decode_eq_error_iff.mpr h
  rw [step_of_issues hp hi, issue_of_decode_error he, State.flag_clearStatus]
  rfl

end Sys2Proof.Machine
end
